-- ==== Sys2Proof/Config.lean ====
section
/-! DEFINITION. What an implementation of the block fixes, and the free values.

`RX_CAP` is the one open parameter (00_scope.md R8, 93_implementation_defined.md U18): any integer of at
least 10. The response ports before the first transaction may hold any value (U16). Neither has a value here. -/

namespace Sys2Proof.Config

/-- How far `RX_CAP` exceeds 10: left open by 00_scope.md R8, so it has no body. -/
opaque rxCapAboveTen : Nat

/-- `RX_CAP`, the longest byte sequence the `rx` port can present: an integer of at least 10
(00_scope.md R8, 92_eei_decisions.md D11). Nothing else is known of it. -/
def rxCap : Nat := rxCapAboveTen + 10

/-- FREE VALUE: the `w` bits that response port number `port` holds after the `draw`-th reset, before any
response is given (10_state.md R33, 93_implementation_defined.md U16: "any value"). It has no body. -/
opaque freePort : (w : Nat) → (port draw : Nat) → BitVec w

end Sys2Proof.Config
end

