-- ==== Sys2Proof/Word.lean ====
section
/-! DEFINITION. The word types of the block: bytes and unsigned 16-bit quantities (00_scope.md R8, R10). -/

namespace Sys2Proof

/-- One byte, 0..255 (00_scope.md R10). -/
abbrev Byte := BitVec 8

/-- A `DeviceAddress`: 16 bits, every value legal (00_scope.md R15, 41_frame_encoder.md R121). -/
abbrev Addr := BitVec 16

/-- A raw particulate count: 16 bits, unsigned, in tenths of a microgram per cubic metre (42_frame_decoder.md R142). -/
abbrev Count := BitVec 16

end Sys2Proof
end

