-- ==== Sys2Proof/Syntax.lean ====
section
/-! DEFINITION. The syntax of the block: operands, frames, the two encoded forms, and `Instr`, one
constructor per row of spec/opcode_table.json. -/

namespace Sys2Proof

/-- A ten-byte frame, by the field names of 30_encoding.md R71: offset 0 is `header`, offset 9 is `tail`.
The payload is `d1` to `d6`, at offsets 2 to 7. -/
structure Frame where
  header : Byte
  cmd : Byte
  d1 : Byte
  d2 : Byte
  d3 : Byte
  d4 : Byte
  d5 : Byte
  d6 : Byte
  chk : Byte
  tail : Byte
  deriving DecidableEq, Repr

/-- A sensor's reporting mode (00_scope.md R15). -/
inductive ReportingMode where
  | active
  | query
  deriving DecidableEq, Repr

/-- The mode operand of `ENC_MODE` (10_state.md R27, 30_encoding.md R85). `invalid` is the source's
"value outside {Query, Active, absent}". -/
inductive ModeOperand where
  | absent
  | active
  | query
  | invalid
  deriving DecidableEq, Repr

/-- The request ports as the host drives them for one transaction (10_state.md R22). `rx` lists the lines
`rx[0]`, `rx[1]`, ...; a line past the end of the list is driven to zero (log entry 5). -/
structure RequestPorts where
  op : BitVec 3
  mode : BitVec 2
  addrEn : BitVec 1
  addr : Addr
  rxLen : Nat
  rx : List Byte
  expHdr : Byte
  expCmd : Byte
  expTail : Byte
  deriving DecidableEq, Repr

/-- The two things 30_encoding.md says are encoded in this hardware: a request on the ports (R84), and a
wire frame (R78), here any byte sequence, offset 0 first. -/
inductive Encoded where
  | request (ports : RequestPorts)
  | frame (bytes : List Byte)
  deriving DecidableEq, Repr

/-- The rows of spec/opcode_table.json: six operations in the abstract view of 10_state.md R27, the two
reserved operation codes of 30_encoding.md R88, and the five wire formats of 30_encoding.md R78 with the
field letters of that rule as arguments (`c` is the checksum byte the frame carries). -/
inductive Instr where
  /-- `ENC_MODE`, 41_frame_encoder.md R120. -/
  | encMode (mode : ModeOperand) (address : Option Addr)
  /-- `ENC_QUERY`, 41_frame_encoder.md R125. -/
  | encQuery (address : Option Addr)
  /-- `DEC_READING`, 42_frame_decoder.md R140. -/
  | decReading (rx : List Byte)
  /-- `DEC_MODE`, 42_frame_decoder.md R145. -/
  | decMode (rx : List Byte)
  /-- `VALIDATE`, 40_checksum_validator.md R106. -/
  | validate (rx : List Byte) (expHdr expCmd expTail : Byte)
  /-- `CHK`, 40_checksum_validator.md R103. -/
  | chk (rx : List Byte)
  /-- `RESERVED_OP6`, 30_encoding.md R88. -/
  | reservedOp6
  /-- `RESERVED_OP7`, 30_encoding.md R88. -/
  | reservedOp7
  /-- `CMD.MODE.GET`, 30_encoding.md R72. -/
  | cmdModeGet (a : Addr) (c : Byte)
  /-- `CMD.MODE.SET`, 30_encoding.md R72. -/
  | cmdModeSet (m : ReportingMode) (a : Addr) (c : Byte)
  /-- `CMD.QUERY`, 30_encoding.md R73. -/
  | cmdQuery (a : Addr) (c : Byte)
  /-- `RSP.READING`, 30_encoding.md R74: `p` the PM2.5 and `q` the PM10 raw count. -/
  | rspReading (p q : Count) (a : Addr) (c : Byte)
  /-- `RSP.MODE`, 30_encoding.md R75: `x2`, `x3`, `x5` the payload bytes that are not checked. -/
  | rspMode (x2 x3 : Byte) (m : ReportingMode) (x5 : Byte) (a : Addr) (c : Byte)
  deriving DecidableEq, Repr

end Sys2Proof
end

