-- ==== Sys2Proof/Machine/Wire.lean ====
section
/-! DEFINITION. The wire: protocol constants, byte orders, the checksum, and frames as byte sequences and
as the five patterns of 30_encoding.md R78. -/

namespace Sys2Proof.Machine

/-! ### Constants (00_scope.md R7) -/

/-- `HEADER`, byte 0 of every frame. -/
def headerByte : Byte := 0xAA
/-- `TAIL`, byte 9 of every frame. -/
def tailByte : Byte := 0xAB
/-- `CMD_HOST`, the command id of a command frame. -/
def cmdHost : Byte := 0xB4
/-- `CMD_READING`, the command id of a reading frame. -/
def cmdReading : Byte := 0xC0
/-- `CMD_MODE`, the command id of a mode-report frame. -/
def cmdModeReport : Byte := 0xC5
/-- `SUB_MODE`, the command subtype "reporting mode". -/
def subMode : Byte := 0x02
/-- `SUB_QUERY`, the command subtype "query reading". -/
def subQuery : Byte := 0x04
/-- `BROADCAST`, the address of all devices. -/
def broadcast : Addr := 0xFFFF

/-! ### Byte orders (20_memory.md R52, 30_encoding.md R77) -/

/-- `v[15:8]`. -/
def highByte (v : BitVec 16) : Byte := v.extractLsb' 8 8
/-- `v[7:0]`. -/
def lowByte (v : BitVec 16) : Byte := v.extractLsb' 0 8
/-- Big-endian assembly: the first byte is the high one (device addresses). -/
def bigEndian (first second : Byte) : BitVec 16 := first ++ second
/-- Little-endian assembly: the first byte is the low one (raw counts). -/
def littleEndian (first second : Byte) : BitVec 16 := second ++ first

/-- 40_checksum_validator.md R100: the sum of the six payload bytes as unbounded integers, modulo 256. -/
def checksum (p0 p1 p2 p3 p4 p5 : Byte) : Byte :=
  BitVec.ofNat 8 (p0.toNat + p1.toNat + p2.toNat + p3.toNat + p4.toNat + p5.toNat)

/-- `frame_checksum(f)`, 40_checksum_validator.md R100. -/
def frameChecksum (f : Frame) : Byte := checksum f.d1 f.d2 f.d3 f.d4 f.d5 f.d6

/-- `chk_ok(f)`, 40_checksum_validator.md R102. -/
def chkOk (f : Frame) : Bool := frameChecksum f == f.chk

/-! ### Frames and byte sequences (20_memory.md R51) -/

/-- The ten bytes of a frame, offset 0 first. -/
def frameBytes (f : Frame) : List Byte :=
  [f.header, f.cmd, f.d1, f.d2, f.d3, f.d4, f.d5, f.d6, f.chk, f.tail]

/-- The frame a byte sequence is, when it has exactly ten bytes (30_encoding.md R70); no other sequence is one. -/
def frameOf : List Byte → Option Frame
  | [b0, b1, b2, b3, b4, b5, b6, b7, b8, b9] => some ⟨b0, b1, b2, b3, b4, b5, b6, b7, b8, b9⟩
  | _ => none

/-- The frame with command id `cmd` and the given payload, its checksum filled in (30_encoding.md R71). -/
def sealFrame (cmd d1 d2 d3 d4 d5 d6 : Byte) : Frame :=
  ⟨headerByte, cmd, d1, d2, d3, d4, d5, d6, checksum d1 d2 d3 d4 d5 d6, tailByte⟩

/-! ### Mode bytes (30_encoding.md R77) -/

/-- The byte that stands for a reporting mode: 0x00 Active, 0x01 Query. -/
def modeByte : ReportingMode → Byte
  | .active => 0x00
  | .query => 0x01

/-- The reporting mode a byte stands for; 0x02 to 0xFF stand for none (42_frame_decoder.md R146). -/
def modeOfByte (b : Byte) : Option ReportingMode :=
  if b = 0x00 then some .active else if b = 0x01 then some .query else none

/-! ### The five wire formats (30_encoding.md R72 to R75), with the checksum byte each carries -/

/-- `CMD.MODE.GET`. -/
def cmdModeGetFrame (a : Addr) (c : Byte) : Frame :=
  ⟨headerByte, cmdHost, subMode, 0x00, 0x00, 0x00, highByte a, lowByte a, c, tailByte⟩
/-- `CMD.MODE.SET`. -/
def cmdModeSetFrame (m : ReportingMode) (a : Addr) (c : Byte) : Frame :=
  ⟨headerByte, cmdHost, subMode, 0x01, modeByte m, 0x00, highByte a, lowByte a, c, tailByte⟩
/-- `CMD.QUERY`. -/
def cmdQueryFrame (a : Addr) (c : Byte) : Frame :=
  ⟨headerByte, cmdHost, subQuery, 0x00, 0x00, 0x00, highByte a, lowByte a, c, tailByte⟩
/-- `RSP.READING`: counts low byte first, address high byte first. -/
def rspReadingFrame (p q : Count) (a : Addr) (c : Byte) : Frame :=
  ⟨headerByte, cmdReading, lowByte p, highByte p, lowByte q, highByte q, highByte a, lowByte a, c, tailByte⟩
/-- `RSP.MODE`. -/
def rspModeFrame (x2 x3 : Byte) (m : ReportingMode) (x5 : Byte) (a : Addr) (c : Byte) : Frame :=
  ⟨headerByte, cmdModeReport, x2, x3, modeByte m, x5, highByte a, lowByte a, c, tailByte⟩

end Sys2Proof.Machine
end

