-- ==== Sys2Proof/WellFormed.lean ====
section
/-! DEFINITION. Which instructions are well formed: a received sequence fits the `rx` port
(10_state.md R22, 30_encoding.md R88), and a wire frame carries the checksum of its payload ("not a free
field", spec/opcode_table.json; 30_encoding.md R78). -/

namespace Sys2Proof

/-- A received byte sequence is one the `rx` port can present: its length is 0..`RX_CAP`. -/
def fitsRx (rx : List Byte) : Bool := decide (rx.length ≤ Config.rxCap)

/-- The well-formedness check of an instruction. -/
def Instr.wellFormed : Instr → Bool
  | .encMode _ _ => true
  | .encQuery _ => true
  | .decReading rx => fitsRx rx
  | .decMode rx => fitsRx rx
  | .validate rx _ _ _ => fitsRx rx
  | .chk rx => fitsRx rx
  | .reservedOp6 => true
  | .reservedOp7 => true
  | .cmdModeGet a c => Machine.chkOk (Machine.cmdModeGetFrame a c)
  | .cmdModeSet m a c => Machine.chkOk (Machine.cmdModeSetFrame m a c)
  | .cmdQuery a c => Machine.chkOk (Machine.cmdQueryFrame a c)
  | .rspReading p q a c => Machine.chkOk (Machine.rspReadingFrame p q a c)
  | .rspMode x2 x3 m x5 a c => Machine.chkOk (Machine.rspModeFrame x2 x3 m x5 a c)

end Sys2Proof
end

