-- ==== Sys2Proof/Decode.lean ====
section
/-! DEFINITION. Decoding of both encoded forms into `Instr`, total and rejecting by name, then the encoder,
then the reading of a word numbered as spec/opcode_table.json numbers it. -/

namespace Sys2Proof

open Machine

/-- Why an encoded form stands for no instruction. -/
inductive DecodeError where
  /-- `rx_len > RX_CAP` describes no byte sequence (30_encoding.md R88). -/
  | rxLenAboveCap
  /-- A wire frame has exactly ten bytes (30_encoding.md R70). -/
  | notTenBytes
  /-- Ten bytes that match none of the five patterns of 30_encoding.md R78. -/
  | noFrameFormat
  deriving DecidableEq, Repr

/-! ### Requests on the ports (30_encoding.md R84 to R86) -/

/-- The received sequence `s`, with `s[i] = rx[i]` for `i < rx_len`; lines at index `rx_len` and above are
ignored, unlisted lines are zero (10_state.md R22). -/
def received (r : RequestPorts) : List Byte :=
  (r.rx ++ List.replicate r.rxLen 0x00).take r.rxLen

/-- The four codes of the `mode` port (30_encoding.md R85). -/
def modeOperandOf (code : BitVec 2) : ModeOperand :=
  if code = 0b00#2 then .absent
  else if code = 0b10#2 then .active
  else if code = 0b11#2 then .query
  else .invalid

/-- The code of a mode operand (30_encoding.md R85). -/
def modeCode : ModeOperand → BitVec 2
  | .absent => 0b00#2
  | .active => 0b10#2
  | .query => 0b11#2
  | .invalid => 0b01#2

/-- The address operand: `addr` is read only when `addr_en = 1` (30_encoding.md R86, 10_state.md R26). -/
def addressOf (r : RequestPorts) : Option Addr :=
  if r.addrEn = 1#1 then some r.addr else none

/-- The instruction a legal request stands for: its operation is selected by `op` (30_encoding.md R84). -/
def requestInstr (r : RequestPorts) : Instr :=
  if r.op = 0b000#3 then .encMode (modeOperandOf r.mode) (addressOf r)
  else if r.op = 0b001#3 then .encQuery (addressOf r)
  else if r.op = 0b010#3 then .decReading (received r)
  else if r.op = 0b011#3 then .decMode (received r)
  else if r.op = 0b100#3 then .validate (received r) r.expHdr r.expCmd r.expTail
  else if r.op = 0b101#3 then .chk (received r)
  else if r.op = 0b110#3 then .reservedOp6
  else .reservedOp7

/-- A request is reserved when its `op` is 6 or 7, whatever else it holds, or its `rx_len` exceeds `RX_CAP`,
whatever its operation (30_encoding.md R88; log entry 6). -/
def decodeRequest (r : RequestPorts) : Except DecodeError Instr :=
  if r.op = 0b110#3 ∨ r.op = 0b111#3 ∨ r.rxLen ≤ Config.rxCap then .ok (requestInstr r)
  else .error .rxLenAboveCap

/-! ### Wire frames (30_encoding.md R78) -/

/-- The command formats: subtype 0x02 with its two flag bytes, or subtype 0x04; reserved bytes are zero. -/
def decodeCommand (f : Frame) : Except DecodeError Instr :=
  let a := bigEndian f.d5 f.d6
  if f.d4 = 0x00 then
    if f.d1 = subMode ∧ f.d2 = 0x00 ∧ f.d3 = 0x00 then .ok (.cmdModeGet a f.chk)
    else if f.d1 = subMode ∧ f.d2 = 0x01 then
      match modeOfByte f.d3 with
      | some m => .ok (.cmdModeSet m a f.chk)
      | none => .error .noFrameFormat
    else if f.d1 = subQuery ∧ f.d2 = 0x00 ∧ f.d3 = 0x00 then .ok (.cmdQuery a f.chk)
    else .error .noFrameFormat
  else .error .noFrameFormat

/-- The format of a frame by the fixed bits of its pattern. The checksum byte is kept as it stands: whether
it is right is a matter of well-formedness, and of the operation that meets the frame. -/
def decodeFrame (f : Frame) : Except DecodeError Instr :=
  if f.header = headerByte ∧ f.tail = tailByte then
    if f.cmd = cmdHost then decodeCommand f
    else if f.cmd = cmdReading then
      .ok (.rspReading (littleEndian f.d1 f.d2) (littleEndian f.d3 f.d4) (bigEndian f.d5 f.d6) f.chk)
    else if f.cmd = cmdModeReport then
      match modeOfByte f.d3 with
      | some m => .ok (.rspMode f.d1 f.d2 m f.d4 (bigEndian f.d5 f.d6) f.chk)
      | none => .error .noFrameFormat
    else .error .noFrameFormat
  else .error .noFrameFormat

/-- The decoder. -/
def decode : Encoded → Except DecodeError Instr
  | .request r => decodeRequest r
  | .frame bytes =>
    match frameOf bytes with
    | some f => decodeFrame f
    | none => .error .notTenBytes

/-! ### The encoder -/

/-- A request with operation code `op` and every other port at zero. -/
def opRequest (op : BitVec 3) : RequestPorts :=
  ⟨op, 0b00#2, 0#1, 0x0000, 0, [], 0x00, 0x00, 0x00⟩

/-- Drive the address operand: `addr_en = 0` when no address is given (30_encoding.md R86). -/
def driveAddress (r : RequestPorts) : Option Addr → RequestPorts
  | none => { r with addrEn := 0#1 }
  | some a => { r with addrEn := 1#1, addr := a }

/-- Drive a received sequence on `rx_len` and `rx` (10_state.md R22). -/
def driveRx (r : RequestPorts) (rx : List Byte) : RequestPorts :=
  { r with rxLen := rx.length, rx := rx }

/-- The encoded form of an instruction: the request of 30_encoding.md R84, or the frame of R72 to R75. -/
def encode : Instr → Encoded
  | .encMode mode address =>
    .request (driveAddress { opRequest 0b000#3 with mode := modeCode mode } address)
  | .encQuery address => .request (driveAddress (opRequest 0b001#3) address)
  | .decReading rx => .request (driveRx (opRequest 0b010#3) rx)
  | .decMode rx => .request (driveRx (opRequest 0b011#3) rx)
  | .validate rx eh ec et =>
    .request (driveRx { opRequest 0b100#3 with expHdr := eh, expCmd := ec, expTail := et } rx)
  | .chk rx => .request (driveRx (opRequest 0b101#3) rx)
  | .reservedOp6 => .request (opRequest 0b110#3)
  | .reservedOp7 => .request (opRequest 0b111#3)
  | .cmdModeGet a c => .frame (frameBytes (cmdModeGetFrame a c))
  | .cmdModeSet m a c => .frame (frameBytes (cmdModeSetFrame m a c))
  | .cmdQuery a c => .frame (frameBytes (cmdQueryFrame a c))
  | .rspReading p q a c => .frame (frameBytes (rspReadingFrame p q a c))
  | .rspMode x2 x3 m x5 a c => .frame (frameBytes (rspModeFrame x2 x3 m x5 a c))

/-! ### Words numbered as spec/opcode_table.json numbers them -/

/-- The byte at frame offset `i` of the 80-bit word `W`: `f[i] = W[79-8i : 72-8i]` (20_memory.md R53, 30_encoding.md R71). -/
def wordByte (w i : Nat) : Byte := BitVec.ofNat 8 (w >>> (72 - 8 * i))

/-- The encoded form a table word stands for. A row of the format REQ is its `op` code, every other port at
zero; a row of the format FRAME80 is the ten bytes of the word `W`. No other length is in the table. -/
def tableWord (nbits w : Nat) : Option Encoded :=
  if nbits = 80 then some (.frame ((List.range 10).map (wordByte w)))
  else if nbits ≤ 8 ∧ w < 8 then some (.request (opRequest (BitVec.ofNat 3 w)))
  else none

/-- The instruction the decoder reads from a word of spec/opcode_table.json. -/
def decodeTableWord (nbits w : Nat) : Option Instr :=
  match tableWord nbits w with
  | none => none
  | some e => (decode e).toOption

end Sys2Proof
end

