-- ==== Sys2Proof/Machine/State.lean ====
section
/-! DEFINITION. The state of the machine: what the host still presents, and the response ports; with the
responses and reasons of the abstract view, the faults (none) and the refusals. -/

namespace Sys2Proof.Machine

/-- The six reasons of a `CorruptFrame` (60_exceptions.md R174). -/
inductive Reason where
  | badHeader
  | badCommand
  | badTail
  | badChecksum
  | badMode
  | badLength
  deriving DecidableEq, Repr

/-- A response in the abstract view (10_state.md R27). -/
inductive Response where
  | frame (f : Frame)
  | reading (pm25 pm10 : Count) (address : Addr)
  | mode (m : ReportingMode) (address : Addr)
  | valid
  | sum (sum : Byte) (ok : Bool)
  | corrupt (r : Reason)
  | invalidArg
  deriving DecidableEq, Repr

/-- The response ports (10_state.md R23). `matched` is the port the spec calls `match`. -/
structure ResponsePorts where
  status : BitVec 2
  reason : BitVec 3
  tx : Frame
  pm25Raw : Count
  pm10Raw : Count
  addrOut : Addr
  modeOut : BitVec 1
  sum : Byte
  matched : BitVec 1
  deriving DecidableEq, Repr

/-- What the host does to the block, one event at a time (70_reset_and_hazards.md R200, R207). -/
inductive HostInput where
  /-- The host presents a request on the ports, or a wire frame to be handled by the operation of its row (log entry 7). -/
  | present (e : Encoded)
  /-- The host resets the block; a transaction in progress, if there is one, is dropped
  (log entry 11). DESIGN CHOICE (log entry 17, unsafe): so is a reserved request, without a refusal. -/
  | reset (inProgress : Option RequestPorts)
  deriving DecidableEq, Repr

/-- Why the machine stops with a fault: never. The block has no trap, no hang and no undefined result
(00_scope.md R16, 60_exceptions.md R179, 70_reset_and_hazards.md R210); its errors are responses
(60_exceptions.md R176). So the type has no constructor. Nothing raises a fault; this is safe, for the spec
names no case that a fault would stand for. -/
inductive Fault
  deriving DecidableEq, Repr

/-- Why the machine gives an instruction no meaning. All are safe: the model stops. -/
inductive Refusal where
  /-- Raised by no meaning: an instruction without one would be refused so, by name, in `exec`. Safe. -/
  | notModelled (mnemonic : String)
  /-- Raised by `execReservedOp6`: `op = 0b110` selects no operation and a model refuses it (30_encoding.md R88). Safe. -/
  | reservedOp6
  /-- Raised by `execReservedOp7`: `op = 0b111` selects no operation and a model refuses it (30_encoding.md R88). Safe. -/
  | reservedOp7
  /-- Raised by `step` on a request with `rx_len > RX_CAP`, which a model refuses (30_encoding.md R88; log entry 6). Safe. -/
  | rxLenAboveCap
  /-- Raised by `step` on a bare wire frame that has not ten bytes: no row of the table is such a frame (log entry 9). Safe. -/
  | frameNotTenBytes
  /-- Raised by `step` on a bare wire frame of ten bytes that matches no pattern of the table (log entry 9). Safe. -/
  | frameOfNoFormat
  deriving DecidableEq, Repr

/-- The whole state. The block itself keeps nothing from one transaction to the next (10_state.md R20): what
stands here is the host's side and the response ports. -/
structure State where
  /-- What the host still presents, oldest first: the environment of 70_reset_and_hazards.md R202 (log entry 1). -/
  inputs : List HostInput
  /-- The response ports: the last response given (10_state.md R23). Meaningless while `responded` is false. -/
  rsp : ResponsePorts
  /-- Whether a response has been given since reset (10_state.md R24, R33). -/
  responded : Bool
  /-- The model's own: how many resets have drawn fresh free values for the response ports (log entry 3). -/
  freeDraws : Nat
  deriving DecidableEq, Repr

/-- FREE VALUES: the response ports after the `draw`-th reset and before a response, every port any value
(10_state.md R33, 93_implementation_defined.md U16; log entry 3). -/
def unspecifiedPorts (draw : Nat) : ResponsePorts where
  status := Config.freePort 2 0 draw
  reason := Config.freePort 3 1 draw
  tx :=
    { header := Config.freePort 8 2 draw
      cmd := Config.freePort 8 3 draw
      d1 := Config.freePort 8 4 draw
      d2 := Config.freePort 8 5 draw
      d3 := Config.freePort 8 6 draw
      d4 := Config.freePort 8 7 draw
      d5 := Config.freePort 8 8 draw
      d6 := Config.freePort 8 9 draw
      chk := Config.freePort 8 10 draw
      tail := Config.freePort 8 11 draw }
  pm25Raw := Config.freePort 16 12 draw
  pm10Raw := Config.freePort 16 13 draw
  addrOut := Config.freePort 16 14 draw
  modeOut := Config.freePort 1 15 draw
  sum := Config.freePort 8 16 draw
  matched := Config.freePort 1 17 draw

/-- The machine right after reset (10_state.md R33): nothing presented, no response given, the response ports unspecified. -/
def State.reset : State where
  inputs := []
  rsp := unspecifiedPorts 0
  responded := false
  freeDraws := 0

end Sys2Proof.Machine
end

