-- ==== Sys2Proof/Machine/Flags.lean ====
section
/-! DEFINITION. The block has no flags (10_state.md R30). What says how an operation went is the `status`
and `reason` ports: their codes, and the port encoding of a whole response. -/

namespace Sys2Proof.Machine

/-- The codes of the `reason` port (60_exceptions.md R174). -/
def reasonCode : Reason → BitVec 3
  | .badHeader => 1
  | .badCommand => 2
  | .badTail => 3
  | .badChecksum => 4
  | .badMode => 5
  | .badLength => 6

/-- The `mode_out` port: 0 Active, 1 Query (10_state.md R23). -/
def modeOutCode : ReportingMode → BitVec 1
  | .active => 0
  | .query => 1

/-- `OK` with every data port at zero: what an operation that produces no data answers (10_state.md R25). -/
def okNoData : ResponsePorts :=
  ⟨0, 0, ⟨0, 0, 0, 0, 0, 0, 0, 0, 0, 0⟩, 0, 0, 0, 0, 0, 0⟩

/-- The port encoding of a response (10_state.md R23, R25, R27; 60_exceptions.md R171 to R174). -/
def portsOf : Response → ResponsePorts
  | .frame f => { okNoData with tx := f }
  | .reading p q a => { okNoData with pm25Raw := p, pm10Raw := q, addrOut := a }
  | .mode m a => { okNoData with modeOut := modeOutCode m, addrOut := a }
  | .valid => okNoData
  | .sum c ok => { okNoData with sum := c, matched := BitVec.ofBool ok }
  | .corrupt r => { okNoData with status := 1, reason := reasonCode r }
  | .invalidArg => { okNoData with status := 2 }

end Sys2Proof.Machine
end

