-- ==== Sys2Proof/Machine/Operands.lean ====
section
/-! DEFINITION. The operand forms: the effective address and the flag bytes of the encoder, the shared
validation of a received sequence, and the decimal reading of a raw count. -/

namespace Sys2Proof.Machine

/-- The effective target address: `BROADCAST` when none is given (41_frame_encoder.md R121). -/
def effectiveAddress : Option Addr → Addr
  | none => broadcast
  | some a => a

/-- The get/set flag byte of a mode operand: 0x00 when it is absent (30_encoding.md R77). -/
def setFlag : ModeOperand → Byte
  | .absent => 0x00
  | _ => 0x01

/-- The active/query flag byte: 0x01 when the operand is Query; 0x00 otherwise, absent included (41_frame_encoder.md R123). -/
def queryFlag : ModeOperand → Byte
  | .query => 0x01
  | _ => 0x00

/-- 40_checksum_validator.md R105: the length check, before any byte is compared. -/
def checkLength (rx : List Byte) : Except Reason Frame :=
  match frameOf rx with
  | some f => .ok f
  | none => .error .badLength

/-- 40_checksum_validator.md R106, checks 1 to 4, in this order. -/
def checkFrame (f : Frame) (eh ec et : Byte) : Except Reason Frame :=
  if f.header ≠ eh then .error .badHeader
  else if f.cmd ≠ ec then .error .badCommand
  else if f.tail ≠ et then .error .badTail
  else if frameChecksum f ≠ f.chk then .error .badChecksum
  else .ok f

/-- 40_checksum_validator.md R106: the shared validation; it hands on the frame that passed. -/
def validated (rx : List Byte) (eh ec et : Byte) : Except Reason Frame :=
  match checkLength rx with
  | .error r => .error r
  | .ok f => checkFrame f eh ec et

/-- 42_frame_decoder.md R142: `dec10(r)`, the integer part and the tenths digit of the concentration `r / 10`. -/
def dec10 (r : Count) : Nat × Nat := (r.toNat / 10, r.toNat % 10)

end Sys2Proof.Machine
end

