-- ==== Sys2Proof/Machine/Ops.lean ====
section
/-! DEFINITION. The operations every meaning is made of: giving a response, raising an error (the block has
no trap: an error IS a response, 60_exceptions.md R179), and taking a reset. -/

namespace Sys2Proof.Machine

/-- Give the response of a transaction: all nine response ports are driven at once (10_state.md R23, R24). -/
def respond (r : Response) (s : State) : State :=
  { s with rsp := portsOf r, responded := true }

/-- `raise CorruptFrame(r)` (00_scope.md R13, 60_exceptions.md R172): where a check failed the operation ends
at once with that error and nothing after it is computed; otherwise it goes on with what the check hands on. -/
def orRaise (checked : Except Reason Frame) (goOn : Frame → Response) : Response :=
  match checked with
  | .error r => .corrupt r
  | .ok f => goOn f

/-- `raise InvalidArgument` (60_exceptions.md R173). -/
def raiseInvalidArgument : Response := .invalidArg

/-- Take a reset (70_reset_and_hazards.md R200): nothing is answered, the block is ready for the next input,
and the response ports mean nothing until a response is given (10_state.md R33). It does not look at the request
the reset cuts short: a reserved one is dropped like any other (DESIGN CHOICE, log entry 17). -/
def takeReset (s : State) : State :=
  { s with rsp := unspecifiedPorts (s.freeDraws + 1), responded := false, freeDraws := s.freeDraws + 1 }

end Sys2Proof.Machine
end

