-- ==== Sys2Proof/Machine/Checksum.lean ====
section
/-! DEFINITION. The checksum validator: `CHK` and `VALIDATE` (40_checksum_validator.md). -/

namespace Sys2Proof.Machine

/-- 40_checksum_validator.md R103: the checksum of the six payload bytes, and whether byte 8 agrees. Nothing
but the length is judged. -/
def chkResponse (rx : List Byte) : Response :=
  orRaise (checkLength rx) fun f => .sum (frameChecksum f) (chkOk f)

/-- 40_checksum_validator.md R106. -/
def validateResponse (rx : List Byte) (eh ec et : Byte) : Response :=
  orRaise (validated rx eh ec et) fun _ => .valid

/-- `CHK`. -/
def execChk (rx : List Byte) (s : State) : Host.Outcome State Fault Refusal :=
  .next (respond (chkResponse rx) s)

/-- `VALIDATE`. -/
def execValidate (rx : List Byte) (eh ec et : Byte) (s : State) : Host.Outcome State Fault Refusal :=
  .next (respond (validateResponse rx eh ec et) s)

end Sys2Proof.Machine
end

