-- ==== Sys2Proof/Machine/Decoder.lean ====
section
/-! DEFINITION. The frame decoder: `DEC_READING` and `DEC_MODE` (42_frame_decoder.md). Validate first, then
decode (R144). -/

namespace Sys2Proof.Machine

/-- The extraction of a reading (42_frame_decoder.md R141): counts little-endian, address big-endian. -/
def readingOf (f : Frame) : Response :=
  .reading (littleEndian f.d1 f.d2) (littleEndian f.d3 f.d4) (bigEndian f.d5 f.d6)

/-- The mode check and the extraction of a mode report (42_frame_decoder.md R145, step 5 onward). -/
def modeReportOf (f : Frame) : Response :=
  match modeOfByte f.d3 with
  | some m => .mode m (bigEndian f.d5 f.d6)
  | none => .corrupt .badMode

/-- 42_frame_decoder.md R140. -/
def decReadingResponse (rx : List Byte) : Response :=
  orRaise (validated rx headerByte cmdReading tailByte) readingOf

/-- 42_frame_decoder.md R145. -/
def decModeResponse (rx : List Byte) : Response :=
  orRaise (validated rx headerByte cmdModeReport tailByte) modeReportOf

/-- `DEC_READING`. -/
def execDecReading (rx : List Byte) (s : State) : Host.Outcome State Fault Refusal :=
  .next (respond (decReadingResponse rx) s)

/-- `DEC_MODE`. -/
def execDecMode (rx : List Byte) (s : State) : Host.Outcome State Fault Refusal :=
  .next (respond (decModeResponse rx) s)

end Sys2Proof.Machine
end

