-- ==== Sys2Proof/Machine/Encoder.lean ====
section
/-! DEFINITION. The frame encoder: `ENC_MODE` and `ENC_QUERY` (41_frame_encoder.md). -/

namespace Sys2Proof.Machine

/-- The frame `ENC_MODE` builds for a legal mode operand and an effective address (41_frame_encoder.md R120). -/
def modeCommand (mode : ModeOperand) (a : Addr) : Frame :=
  sealFrame cmdHost subMode (setFlag mode) (queryFlag mode) 0x00 (highByte a) (lowByte a)

/-- The frame `ENC_QUERY` builds for an effective address (41_frame_encoder.md R125). -/
def queryCommand (a : Addr) : Frame :=
  sealFrame cmdHost subQuery 0x00 0x00 0x00 (highByte a) (lowByte a)

/-- 41_frame_encoder.md R120: an INVALID mode operand raises `InvalidArgument` before anything else (R122). -/
def encModeResponse (mode : ModeOperand) (address : Option Addr) : Response :=
  if mode = .invalid then raiseInvalidArgument
  else .frame (modeCommand mode (effectiveAddress address))

/-- 41_frame_encoder.md R125: no failure. -/
def encQueryResponse (address : Option Addr) : Response :=
  .frame (queryCommand (effectiveAddress address))

/-- `ENC_MODE`. -/
def execEncMode (mode : ModeOperand) (address : Option Addr) (s : State) : Host.Outcome State Fault Refusal :=
  .next (respond (encModeResponse mode address) s)

/-- `ENC_QUERY`. -/
def execEncQuery (address : Option Addr) (s : State) : Host.Outcome State Fault Refusal :=
  .next (respond (encQueryResponse address) s)

end Sys2Proof.Machine
end

