-- ==== Sys2Proof/Machine/Frames.lean ====
section
/-! DEFINITION. The wire-frame rows of the opcode table. Each row names the one operation that builds or
decodes its frame; the row's meaning is that transaction for that frame (log entry 7). -/

namespace Sys2Proof.Machine

/-- A command frame is built by the encoder (30_encoding.md R72, R73). A frame whose checksum byte is wrong is
built by no request; it is corrupt with `BAD_CHECKSUM` (R78), the response the shared validation gives it
with the bytes of a command frame (40_checksum_validator.md R108; log entry 8). -/
def commandResponse (f : Frame) (built : Response) : Response :=
  orRaise (checkFrame f headerByte cmdHost tailByte) fun _ => built

/-- `CMD.MODE.GET`: "built by ENC_MODE with mode=ABSENT". -/
def execCmdModeGet (a : Addr) (c : Byte) (s : State) : Host.Outcome State Fault Refusal :=
  .next (respond (commandResponse (cmdModeGetFrame a c) (encModeResponse .absent (some a))) s)

/-- The mode operand that sets a reporting mode. -/
def settingOperand : ReportingMode → ModeOperand
  | .active => .active
  | .query => .query

/-- `CMD.MODE.SET`: "built by ENC_MODE with mode=ACTIVE (m=0) or QUERY (m=1)". -/
def execCmdModeSet (m : ReportingMode) (a : Addr) (c : Byte) (s : State) : Host.Outcome State Fault Refusal :=
  .next (respond (commandResponse (cmdModeSetFrame m a c) (encModeResponse (settingOperand m) (some a))) s)

/-- `CMD.QUERY`: "built by ENC_QUERY". -/
def execCmdQuery (a : Addr) (c : Byte) (s : State) : Host.Outcome State Fault Refusal :=
  .next (respond (commandResponse (cmdQueryFrame a c) (encQueryResponse (some a))) s)

/-- `RSP.READING`: "decoded by DEC_READING". -/
def execRspReading (p q : Count) (a : Addr) (c : Byte) (s : State) : Host.Outcome State Fault Refusal :=
  .next (respond (decReadingResponse (frameBytes (rspReadingFrame p q a c))) s)

/-- `RSP.MODE`: "decoded by DEC_MODE". -/
def execRspMode (x2 x3 : Byte) (m : ReportingMode) (x5 : Byte) (a : Addr) (c : Byte) (s : State) :
    Host.Outcome State Fault Refusal :=
  .next (respond (decModeResponse (frameBytes (rspModeFrame x2 x3 m x5 a c))) s)

end Sys2Proof.Machine
end

