-- ==== Sys2Proof/Machine/Reserved.lean ====
section
/-! DEFINITION. The two reserved request codes: "A model refuses such a request: it gives it no response and
no meaning" (30_encoding.md R88). -/

namespace Sys2Proof.Machine

/-- `RESERVED_OP6`. -/
def execReservedOp6 (_s : State) : Host.Outcome State Fault Refusal := .refused .reservedOp6

/-- `RESERVED_OP7`. -/
def execReservedOp7 (_s : State) : Host.Outcome State Fault Refusal := .refused .reservedOp7

end Sys2Proof.Machine
end

