-- ==== Sys2Proof/Machine/Dispatch.lean ====
section
/-! DEFINITION. One arm per constructor of Instr, each one call of its meaning. -/

namespace Sys2Proof.Machine

def exec (i : Instr) (s : State) : Host.Outcome State Fault Refusal :=
  match i with
  | .encMode mode address => Sys2Proof.Machine.execEncMode mode address s
  | .encQuery address => Sys2Proof.Machine.execEncQuery address s
  | .decReading rx => Sys2Proof.Machine.execDecReading rx s
  | .decMode rx => Sys2Proof.Machine.execDecMode rx s
  | .validate rx eh ec et => Sys2Proof.Machine.execValidate rx eh ec et s
  | .chk rx => Sys2Proof.Machine.execChk rx s
  -- reserved request codes
  | .reservedOp6 => Sys2Proof.Machine.execReservedOp6 s
  | .reservedOp7 => Sys2Proof.Machine.execReservedOp7 s
  -- wire frames
  | .cmdModeGet a c => Sys2Proof.Machine.execCmdModeGet a c s
  | .cmdModeSet m a c => Sys2Proof.Machine.execCmdModeSet m a c s
  | .cmdQuery a c => Sys2Proof.Machine.execCmdQuery a c s
  | .rspReading p q a c => Sys2Proof.Machine.execRspReading p q a c s
  | .rspMode x2 x3 m x5 a c => Sys2Proof.Machine.execRspMode x2 x3 m x5 a c s

end Sys2Proof.Machine
end

