-- ==== Sys2Proof/Machine/Step.lean ====
section
/-! DEFINITION. One step: the oldest input of the host is taken, a request or frame is decoded and its
transaction performed whole (10_state.md R24). -/

namespace Sys2Proof.Machine

/-- The refusal that names why an encoded form stands for no instruction. -/
def refusalOf : DecodeError → Refusal
  | .rxLenAboveCap => .rxLenAboveCap
  | .notTenBytes => .frameNotTenBytes
  | .noFrameFormat => .frameOfNoFormat

/-- The state once the oldest input has been taken off the list. -/
def State.afterTaking (s : State) (rest : List HostInput) : State := { s with inputs := rest }

/-- One step of the block. With nothing presented it does nothing: it signals nothing on its own account
(60_exceptions.md R177; log entry 2). A reset drops the request it cuts short, of whatever kind: that it drops a
reserved one, and does not refuse the run for it, is a DESIGN CHOICE (log entry 17, unsafe), for 30_encoding.md R88
says that a model refuses such a request and 10_state.md R33 speaks only of a transaction cut short. -/
def step (s : State) : Host.Outcome State Fault Refusal :=
  match s.inputs with
  | [] => .next s
  | .reset _ :: rest => .next (takeReset (s.afterTaking rest))
  | .present e :: rest =>
    match decode e with
    | .error d => .refused (refusalOf d)
    | .ok i => exec i (s.afterTaking rest)

/-- The state in which the host presents, as the very next input, the instruction a table word stands for
(log entries 1 and 10). A word of no row of the table leaves the state as it is. -/
def State.withFetchWord (s : State) (nbits w : Nat) : State :=
  match tableWord nbits w with
  | some e => { s with inputs := .present e :: s.inputs }
  | none => s

end Sys2Proof.Machine
end

