-- ==== Sys2Proof/Safety.lean ====
section
/-! DEFINITION. What the host may present, what the response ports may hold, and the invariant of the machine. -/

namespace Sys2Proof

open Machine

/-- 30_encoding.md R88, 70_reset_and_hazards.md R207: a request the host may present. Its `op` is one of the
six operations and its `rx_len` describes a byte sequence. -/
abbrev RequestPorts.Legal (r : RequestPorts) : Prop :=
  r.op.toNat < 6 ∧ r.rxLen ≤ Config.rxCap

/-- What the host may present: a legal request, or a wire frame that is a row of the opcode table (DESIGN CHOICE,
log entry 7). -/
def Encoded.Legal : Encoded → Prop
  | .request r => r.Legal
  | .frame bytes => ∃ i, decode (.frame bytes) = .ok i

/-- A legal input: a reset always is one. DESIGN CHOICE (log entry 17, unsafe): it is one also when the request
it cuts short is reserved, which 30_encoding.md R88 says a host must not present and 70_reset_and_hazards.md R200
does not speak of. -/
def Machine.HostInput.Legal : HostInput → Prop
  | .present e => e.Legal
  | .reset _ => True

/-- The host keeps its duties towards the ports for the whole run (70_reset_and_hazards.md R207), for every
request that a reset does not cut short (log entry 17). -/
def Machine.State.HostObeys (s : State) : Prop := ∀ x ∈ s.inputs, x.Legal

/-- Every data port reads as zero (10_state.md R25). -/
abbrev Machine.ResponsePorts.NoData (p : ResponsePorts) : Prop :=
  p.tx = ⟨0, 0, 0, 0, 0, 0, 0, 0, 0, 0⟩ ∧ p.pm25Raw = 0 ∧ p.pm10Raw = 0 ∧ p.addrOut = 0 ∧ p.modeOut = 0 ∧
    p.sum = 0 ∧ p.matched = 0

/-- What a given response obeys: `status` 3 and `reason` 7 are never produced (60_exceptions.md R171, R174), a
reason other than NONE goes with CORRUPT_FRAME and only with it (R172 to R174), and an error carries no data (R171). -/
abbrev Machine.ResponsePorts.Lawful (p : ResponsePorts) : Prop :=
  p.status ≠ 3 ∧ p.reason ≠ 7 ∧ (p.reason ≠ 0 ↔ p.status = 1) ∧ (p.status ≠ 0 → p.NoData)

/-- The invariant: once a response has been given, the response ports hold a lawful one. Before that they
mean nothing (10_state.md R33). -/
abbrev Machine.State.Inv (s : State) : Prop := s.responded = true → s.rsp.Lawful

/-- The machine neither faults nor refuses within `n` steps. -/
def Machine.State.RunsSafely (s : State) (n : Nat) : Prop :=
  ∃ t : State, core.run n s = .next t

end Sys2Proof
end

