-- ==== Sys2Proof/Certificates/Slice0/Obligations.lean ====
section
/-! DEFINITION. The statements for the provers. The vocabulary of `Sys2Proof.Spec` is written from the
spec's rules in integers and byte positions, apart from the functions the model is made of. -/

namespace Sys2Proof.Spec

open Machine

/-- A response without data: the given `status` and `reason`, every data port zero (10_state.md R25). -/
def silent (status : BitVec 2) (reason : BitVec 3) : ResponsePorts where
  status := status
  reason := reason
  tx := ⟨0, 0, 0, 0, 0, 0, 0, 0, 0, 0⟩
  pm25Raw := 0
  pm10Raw := 0
  addrOut := 0
  modeOut := 0
  sum := 0
  matched := 0

/-- The state in which the response `p` has been given and nothing else has changed (10_state.md R20). -/
def answered (s : State) (p : ResponsePorts) : State :=
  ⟨s.inputs, p, true, s.freeDraws⟩

/-- `s[k]`, the byte at offset `k` of a received sequence (00_scope.md R12). -/
def byteAt (rx : List Byte) (k : Nat) : Byte := rx.getD k 0

/-- The true sum of the six payload bytes, offsets 2 to 7 (40_checksum_validator.md R100). -/
def payloadSum (rx : List Byte) : Nat :=
  (byteAt rx 2).toNat + (byteAt rx 3).toNat + (byteAt rx 4).toNat + (byteAt rx 5).toNat + (byteAt rx 6).toNat + (byteAt rx 7).toNat

/-- The pseudocode of 40_checksum_validator.md R106 as cases: `p` is the response of the first failing check,
and `passed` holds of the rest of the operation when all five pass. -/
def Checked (rx : List Byte) (eh ec et : Byte) (p : ResponsePorts) (passed : Prop) : Prop :=
  (rx.length ≠ 10 ∧ p = silent 1 6) ∨
  (rx.length = 10 ∧ byteAt rx 0 ≠ eh ∧ p = silent 1 1) ∨
  (rx.length = 10 ∧ byteAt rx 0 = eh ∧ byteAt rx 1 ≠ ec ∧ p = silent 1 2) ∨
  (rx.length = 10 ∧ byteAt rx 0 = eh ∧ byteAt rx 1 = ec ∧ byteAt rx 9 ≠ et ∧ p = silent 1 3) ∨
  (rx.length = 10 ∧ byteAt rx 0 = eh ∧ byteAt rx 1 = ec ∧ byteAt rx 9 = et ∧
    payloadSum rx % 256 ≠ (byteAt rx 8).toNat ∧ p = silent 1 4) ∨
  (rx.length = 10 ∧ byteAt rx 0 = eh ∧ byteAt rx 1 = ec ∧ byteAt rx 9 = et ∧
    payloadSum rx % 256 = (byteAt rx 8).toNat ∧ passed)

/-- `a` if one is given, else 0xFFFF (41_frame_encoder.md R121). -/
def target : Option Addr → Nat
  | none => 65535
  | some a => a.toNat

/-- The frame `AA cmd d1 .. d4 ah al ck AB` for an address number, with `ck` the sum of the six payload bytes
modulo 256 (30_encoding.md R72 to R75). -/
def addressedFrame (cmd d1 d2 d3 d4 : Byte) (address : Nat) : Frame :=
  ⟨0xAA, cmd, d1, d2, d3, d4, BitVec.ofNat 8 (address / 256), BitVec.ofNat 8 (address % 256),
    BitVec.ofNat 8 (d1.toNat + d2.toNat + d3.toNat + d4.toNat + address / 256 + address % 256), 0xAB⟩

/-- The bytes of a frame, offset 0 first. -/
def bytes (f : Frame) : List Byte :=
  [f.header, f.cmd, f.d1, f.d2, f.d3, f.d4, f.d5, f.d6, f.chk, f.tail]

/-- `reading_frame(p, q, a)` of 42_frame_decoder.md R149. -/
def readingFrame (p q : Count) (a : Addr) : Frame :=
  addressedFrame 0xC0 (BitVec.ofNat 8 (p.toNat % 256)) (BitVec.ofNat 8 (p.toNat / 256))
    (BitVec.ofNat 8 (q.toNat % 256)) (BitVec.ofNat 8 (q.toNat / 256)) a.toNat

/-- `mode_frame(m, a, x2, x3, x5)` of 42_frame_decoder.md R149. -/
def modeFrame (m : Byte) (a : Addr) (x2 x3 x5 : Byte) : Frame :=
  addressedFrame 0xC5 x2 x3 m x5 a.toNat

/-- The 80-bit word `W` of a frame, offset 0 in its top byte (20_memory.md R53). -/
def word (f : Frame) : BitVec 80 :=
  f.header ++ f.cmd ++ f.d1 ++ f.d2 ++ f.d3 ++ f.d4 ++ f.d5 ++ f.d6 ++ f.chk ++ f.tail

/-- The six operations and whether their response has data: which member of the abstract response type
(10_state.md R27) a response is; the two errors have none. -/
def dataKind : Response → Option Nat
  | .frame _ => some 0
  | .reading _ _ _ => some 1
  | .mode _ _ => some 2
  | .valid => some 3
  | .sum _ _ => some 4
  | .corrupt _ => none
  | .invalidArg => none

/-- Two requests for the same operation that agree on every port it reads (10_state.md R22, last column). -/
def SameReadPorts (r r' : RequestPorts) : Prop :=
  r.op = r'.op ∧
  (r.op.toNat = 0 → r.mode = r'.mode) ∧
  (r.op.toNat ≤ 1 → r.addrEn = r'.addrEn ∧ (r.addrEn = 1 → r.addr = r'.addr)) ∧
  (2 ≤ r.op.toNat → r.rxLen = r'.rxLen ∧ ∀ k < r.rxLen, r.rx.getD k 0 = r'.rx.getD k 0) ∧
  (r.op.toNat = 4 → r.expHdr = r'.expHdr ∧ r.expCmd = r'.expCmd ∧ r.expTail = r'.expTail)

end Sys2Proof.Spec

open Sys2Proof Sys2Proof.Machine Sys2Proof.Spec

/-! ### Encoding -/

/-- Words written out from 30_encoding.md R84 and R78 decode to the rows they stand for. -/
def Obligations.TableWordsDecodeToTheirRows : Prop :=
  decodeTableWord 8 0 = some (.encMode .absent none) ∧
  decodeTableWord 8 1 = some (.encQuery none) ∧
  decodeTableWord 8 2 = some (.decReading []) ∧
  decodeTableWord 8 3 = some (.decMode []) ∧
  decodeTableWord 8 4 = some (.validate [] 0 0 0) ∧
  decodeTableWord 8 5 = some (.chk []) ∧
  decodeTableWord 8 6 = some .reservedOp6 ∧
  decodeTableWord 8 7 = some .reservedOp7 ∧
  decodeTableWord 80 0xAAB402000000A16003AB = some (.cmdModeGet 0xA160 0x03) ∧
  decodeTableWord 80 0xAAB402010100A16005AB = some (.cmdModeSet .query 0xA160 0x05) ∧
  decodeTableWord 80 0xAAB404000000FFFF02AB = some (.cmdQuery 0xFFFF 0x02) ∧
  decodeTableWord 80 0xAAC0D4043A0AA1601DAB = some (.rspReading 1236 2618 0xA160 0x1D) ∧
  decodeTableWord 80 0xAAC502010100A16005AB = some (.rspMode 0x02 0x01 .query 0x00 0xA160 0x05)

/-- 30_encoding.md R84 to R86: which operation and which operands the ports of a request select. -/
def Obligations.RequestPortsSelectTheOperation : Prop :=
  ∀ r : RequestPorts, r.rxLen ≤ Config.rxCap → r.rxLen ≤ r.rx.length →
    ∃ (mode : ModeOperand) (address : Option Addr),
      (r.mode.toNat = 0 ↔ mode = .absent) ∧ (r.mode.toNat = 2 ↔ mode = .active) ∧
      (r.mode.toNat = 3 ↔ mode = .query) ∧ (r.mode.toNat = 1 ↔ mode = .invalid) ∧
      (r.addrEn.toNat = 0 → address = none) ∧ (r.addrEn.toNat = 1 → address = some r.addr) ∧
      (r.op.toNat = 0 → decode (.request r) = .ok (.encMode mode address)) ∧
      (r.op.toNat = 1 → decode (.request r) = .ok (.encQuery address)) ∧
      (r.op.toNat = 2 → decode (.request r) = .ok (.decReading (r.rx.take r.rxLen))) ∧
      (r.op.toNat = 3 → decode (.request r) = .ok (.decMode (r.rx.take r.rxLen))) ∧
      (r.op.toNat = 4 →
        decode (.request r) = .ok (.validate (r.rx.take r.rxLen) r.expHdr r.expCmd r.expTail)) ∧
      (r.op.toNat = 5 → decode (.request r) = .ok (.chk (r.rx.take r.rxLen))) ∧
      (r.op.toNat = 6 → decode (.request r) = .ok .reservedOp6) ∧
      (r.op.toNat = 7 → decode (.request r) = .ok .reservedOp7)

/-- No bit of an encoding is dropped: every well-formed instruction is read back from its encoded form. -/
def Obligations.DecodeReadsBackEveryEncoding : Prop :=
  ∀ i : Instr, i.wellFormed = true → decode (encode i) = .ok i

/-- A wire frame has one meaning: whatever ten bytes decode to encodes to exactly those bytes. -/
def Obligations.DecodedFrameEncodesToItsBytes : Prop :=
  ∀ (bs : List Byte) (i : Instr), decode (.frame bs) = .ok i → encode i = .frame bs

/-- 30_encoding.md R78 and the match and mask numerals of spec/opcode_table.json: a frame is of a row's format
exactly when its word `W` has the row's fixed bits. -/
def Obligations.FrameFormatsAreTheTablesPatterns : Prop :=
  ∀ f : Frame,
    ((∃ a c, decode (.frame (bytes f)) = .ok (.cmdModeGet a c)) ↔
      word f &&& 0xFFFFFFFFFFFF000000FF#80 = 0xAAB402000000000000AB#80) ∧
    ((∃ m a c, decode (.frame (bytes f)) = .ok (.cmdModeSet m a c)) ↔
      word f &&& 0xFFFFFFFFFEFF000000FF#80 = 0xAAB402010000000000AB#80) ∧
    ((∃ a c, decode (.frame (bytes f)) = .ok (.cmdQuery a c)) ↔
      word f &&& 0xFFFFFFFFFFFF000000FF#80 = 0xAAB404000000000000AB#80) ∧
    ((∃ p q a c, decode (.frame (bytes f)) = .ok (.rspReading p q a c)) ↔
      word f &&& 0xFFFF00000000000000FF#80 = 0xAAC000000000000000AB#80) ∧
    ((∃ x2 x3 m x5 a c, decode (.frame (bytes f)) = .ok (.rspMode x2 x3 m x5 a c)) ↔
      word f &&& 0xFFFF0000FE00000000FF#80 = 0xAAC500000000000000AB#80)

/-- 30_encoding.md R85: for the three legal mode codes the two flag bytes of the frame are the two bits of the
`mode` port, whatever the other ports hold. The premise on `rx_len` is log entry 6, the list of inputs log entry 1. -/
def Obligations.ModeBitsAreTheFlagBytes : Prop :=
  ∀ (s : State) (r : RequestPorts) (rest : List HostInput), s.inputs = .present (.request r) :: rest →
    r.op = 0 → r.rxLen ≤ Config.rxCap → r.mode.toNat ≠ 1 →
    ∃ t : State, step s = .next t ∧ t.rsp.status = 0 ∧
      t.rsp.tx.d2.toNat = r.mode.toNat / 2 ∧ t.rsp.tx.d3.toNat = r.mode.toNat % 2

/-- 30_encoding.md R86: no address and the address 0xFFFF give the same frame, at the ports and for both
encode operations. The premise on `rx_len` is log entry 6, the list of inputs log entry 1. -/
def Obligations.NoAddressIsBroadcast : Prop :=
  ∀ (s : State) (r : RequestPorts) (rest : List HostInput), r.op.toNat ≤ 1 → r.rxLen ≤ Config.rxCap →
    ∃ t : State,
      step { s with inputs := .present (.request { r with addrEn := 0 }) :: rest } = .next t ∧
      step { s with inputs := .present (.request { r with addrEn := 1, addr := 0xFFFF }) :: rest } = .next t ∧
      t.responded = true

/-! ### One step -/

/-- A step runs the decoded instruction, in the state that has taken it off the list of inputs. -/
def Obligations.StepRunsTheDecodedInstruction : Prop :=
  ∀ (s : State) (e : Encoded) (rest : List HostInput) (i : Instr),
    s.inputs = .present e :: rest → decode e = .ok i →
    step s = exec i ⟨rest, s.rsp, s.responded, s.freeDraws⟩

/-- 60_exceptions.md R177: the block signals nothing on its own account. With nothing presented a step leaves
everything as it is (that such a step exists is the model's choice, log entry 2). -/
def Obligations.NothingHappensWithoutAnInput : Prop :=
  ∀ s : State, s.inputs = [] → step s = .next s

/-- 70_reset_and_hazards.md R200: a reset gives no response, drops a transaction in progress whatever it was,
leaves the later inputs and makes the block ready: the next legal request is answered. The model's choices: a
reset as an input of the list (log entries 1 and 11), taken also when it cuts short a reserved request (log entry 17). -/
def Obligations.ResetDropsAndReadies : Prop :=
  ∀ (s : State) (cut : Option RequestPorts) (r : RequestPorts) (rest : List HostInput),
    s.inputs = .reset cut :: .present (.request r) :: rest → r.op.toNat < 6 → r.rxLen ≤ Config.rxCap →
    ∃ t u : State, step s = .next t ∧ t.responded = false ∧ t.inputs = .present (.request r) :: rest ∧
      step t = .next u ∧ u.responded = true ∧ u.inputs = rest

/-- From 30_encoding.md R88: exactly the reserved requests get no response; every other request is answered.
The model's choices: an encode request with `rx_len > RX_CAP` is refused too, though 10_state.md R26 says that
it ignores `rx_len` (log entry 6); the list of inputs (log entry 1). -/
def Obligations.ExactlyReservedRequestsAreRefused : Prop :=
  ∀ (s : State) (r : RequestPorts) (rest : List HostInput), s.inputs = .present (.request r) :: rest →
    ((r.op.toNat = 6 ∨ r.op.toNat = 7 ∨ Config.rxCap < r.rxLen) → ∃ q, step s = .refused q) ∧
    (¬(r.op.toNat = 6 ∨ r.op.toNat = 7 ∨ Config.rxCap < r.rxLen) →
      ∃ t : State, step s = .next t ∧ t.responded = true ∧ t.inputs = rest ∧ t.freeDraws = s.freeDraws)

/-- 30_encoding.md R88: the two reserved codes as instructions are refused in every state, each by its name. -/
def Obligations.ReservedCodesAreRefused : Prop :=
  ∀ s : State, exec .reservedOp6 s = .refused .reservedOp6 ∧ exec .reservedOp7 s = .refused .reservedOp7

/-- 10_state.md R26: a port the operation does not read does not change the response. That `rx_len` must be
legal for the encode operations too is log entry 6. -/
def Obligations.UnreadPortsAreIgnored : Prop :=
  ∀ (s : State) (r r' : RequestPorts) (rest : List HostInput),
    r.op.toNat < 6 → r.rxLen ≤ Config.rxCap → r'.rxLen ≤ Config.rxCap → SameReadPorts r r' →
    ∃ t : State, step { s with inputs := .present (.request r) :: rest } = .next t ∧
      step { s with inputs := .present (.request r') :: rest } = .next t ∧ t.responded = true

/-- 10_state.md R20: after any history of legal inputs, resets among them, the response to a legal request is
the one it gets as the first transaction after reset. The model's choices: the list of inputs (log entry 1), that
a bare wire frame is answered (log entries 7 and 8), a reset as an input (log entry 11), legal whatever request it
cuts short (log entry 17). -/
def Obligations.ResponseIsAFunctionOfItsRequest : Prop :=
  ∀ (s : State) (history : List HostInput) (e : Encoded), (∀ x ∈ history, x.Legal) → e.Legal →
    ∃ t u : State,
      core.run (history.length + 1) { s with inputs := history ++ [.present e] } = .next t ∧
      core.run 1 { State.reset with inputs := [.present e] } = .next u ∧
      t.rsp = u.rsp ∧ t.responded = true ∧ u.responded = true ∧ t.inputs = []

/-- From 70_reset_and_hazards.md R202 and R210: a run over legal inputs completes and owes nothing at its end. The
model's choices: the list of inputs (log entry 1), that a bare wire frame is answered (log entries 7 and 8), a reset
as an input (log entry 11), legal whatever request it cuts short (log entry 17). -/
def Obligations.LegalRunCompletes : Prop :=
  ∀ s : State, s.HostObeys → ∃ t : State, core.run s.inputs.length s = .next t ∧ t.inputs = []

/-- The frame of every instruction (10_state.md R20, R24): whatever it is, a next state differs from the old one
in the response alone, and a response has been given. -/
def Obligations.ExecutionChangesOnlyTheResponse : Prop :=
  ∀ (i : Instr) (s t : State), exec i s = .next t → t = answered s t.rsp ∧
    ∀ s' : State, exec i s' = .next (answered s' t.rsp)

/-- 60_exceptions.md R171 to R174, 10_state.md R25: in every state a step leads to, from a state with the
invariant, a given response has a legal status and reason and no data beside an error. The steps on no input, on a
bare wire frame and on a reset are the model's (log entries 2, 7, 8, 11 and 17). -/
def Obligations.StepKeepsTheResponsePortsLawful : Prop :=
  ∀ s t : State, s.Inv → step s = .next t → t.Inv

/-- The invariant holds right after reset, whatever the free values are. -/
def Obligations.ResetResponsePortsMakeNoClaim : Prop := State.reset.Inv

/-- 10_state.md R25: a port the operation does not produce reads as zero, and on an error every data port does. -/
def Obligations.UnproducedPortsReadZero : Prop :=
  ∀ (i : Instr) (s t : State), exec i s = .next t →
    (t.rsp.status ≠ 0 → t.rsp = silent t.rsp.status t.rsp.reason) ∧
    ((∀ mode a, i ≠ .encMode mode a) ∧ (∀ a, i ≠ .encQuery a) ∧ (∀ a c, i ≠ .cmdModeGet a c) ∧
      (∀ m a c, i ≠ .cmdModeSet m a c) ∧ (∀ a c, i ≠ .cmdQuery a c) → t.rsp.tx = (silent 0 0).tx) ∧
    ((∀ rx, i ≠ .decReading rx) ∧ (∀ p q a c, i ≠ .rspReading p q a c) →
      t.rsp.pm25Raw = 0 ∧ t.rsp.pm10Raw = 0) ∧
    ((∀ rx, i ≠ .decMode rx) ∧ (∀ x2 x3 m x5 a c, i ≠ .rspMode x2 x3 m x5 a c) → t.rsp.modeOut = 0) ∧
    ((∀ rx, i ≠ .decReading rx) ∧ (∀ p q a c, i ≠ .rspReading p q a c) ∧ (∀ rx, i ≠ .decMode rx) ∧
      (∀ x2 x3 m x5 a c, i ≠ .rspMode x2 x3 m x5 a c) → t.rsp.addrOut = 0) ∧
    ((∀ rx, i ≠ .chk rx) → t.rsp.sum = 0 ∧ t.rsp.matched = 0)

/-- 10_state.md R27: the port encoding of a response is one-to-one on the meaningful fields, and an error is
never encoded as a success. -/
def Obligations.PortEncodingIsOneToOne : Prop :=
  (∀ r r' : Response, portsOf r = portsOf r' → dataKind r = dataKind r' → r = r') ∧
  (∀ r r' : Response, dataKind r = none → dataKind r' ≠ none → (portsOf r).status ≠ (portsOf r').status)

/-- 60_exceptions.md R170: among the six operations `CorruptFrame` comes only from the four that receive, and
`InvalidArgument` only from `ENC_MODE`, for its invalid operand alone (41_frame_encoder.md R127). -/
def Obligations.ErrorKindsByOperation : Prop :=
  (∀ (i : Instr) (s t : State), exec i s = .next t → t.rsp.status = 2 → ∃ a, i = .encMode .invalid a) ∧
  (∀ (mode : ModeOperand) (a : Option Addr) (s t : State), exec (.encMode mode a) s = .next t → t.rsp.status ≠ 1) ∧
  (∀ (a : Option Addr) (s t : State), exec (.encQuery a) s = .next t → t.rsp.status = 0)

/-! ### The checksum validator -/

/-- 40_checksum_validator.md R103: `CHK`, for every byte sequence in every state. -/
def Obligations.ChkReportsSumAndMatch : Prop :=
  ∀ (rx : List Byte) (s : State), ∃ p : ResponsePorts, exec (.chk rx) s = .next (answered s p) ∧
    ((rx.length ≠ 10 ∧ p = silent 1 6) ∨
     (rx.length = 10 ∧ p = { silent 0 0 with
        sum := BitVec.ofNat 8 (payloadSum rx % 256),
        matched := if payloadSum rx % 256 = (byteAt rx 8).toNat then 1 else 0 }))

/-- 40_checksum_validator.md R101: an 8-bit accumulator from zero that drops every carry gives the checksum, in
whatever order it adds; so does the 11-bit true sum, truncated. -/
def Obligations.ChecksumIsAnAccumulatorInAnyOrder : Prop :=
  ∀ (p0 p1 p2 p3 p4 p5 : Byte) (order : List Byte), order.Perm [p0, p1, p2, p3, p4, p5] →
    order.foldl (· + ·) 0 = checksum p0 p1 p2 p3 p4 p5 ∧
    (order.foldl (fun acc b => acc + b.zeroExtend 11) (0 : BitVec 11)).extractLsb' 0 8 =
      checksum p0 p1 p2 p3 p4 p5

/-- 40_checksum_validator.md R104: what the checksum catches and what it does not. A changed byte at one of the
offsets 2 to 8 is caught; a change at 0, 1 or 9 is not seen by it; a swap of two payload bytes is not caught. -/
def Obligations.ChecksumCatchesOneChangedByte : Prop :=
  ∀ (rx : List Byte) (eh ec et : Byte) (s : State), rx.length = 10 →
    exec (.validate rx eh ec et) s = .next (answered s (silent 0 0)) →
    (∀ k v, 2 ≤ k → k ≤ 8 → v ≠ byteAt rx k →
      exec (.validate (rx.set k v) eh ec et) s = .next (answered s (silent 1 4))) ∧
    (∀ k v, (k < 2 ∨ k = 9) → ∃ p : ResponsePorts,
      exec (.chk (rx.set k v)) s = .next (answered s p) ∧ p.status = 0 ∧ p.matched = 1) ∧
    (∀ j k, 2 ≤ j → j ≤ 7 → 2 ≤ k → k ≤ 7 →
      exec (.validate ((rx.set j (byteAt rx k)).set k (byteAt rx j)) eh ec et) s = .next (answered s (silent 0 0)))

/-- 40_checksum_validator.md R106: `VALIDATE`, for every byte sequence and expected bytes in every state. -/
def Obligations.ValidateReportsTheFirstFailingCheck : Prop :=
  ∀ (rx : List Byte) (eh ec et : Byte) (s : State), ∃ p : ResponsePorts,
    exec (.validate rx eh ec et) s = .next (answered s p) ∧ Checked rx eh ec et p (p = silent 0 0)

/-- 40_checksum_validator.md R107: `VALIDATE` accepts exactly the sequences with the five properties. -/
def Obligations.ValidateAcceptsExactly : Prop :=
  ∀ (rx : List Byte) (eh ec et : Byte) (s : State),
    (∃ t : State, exec (.validate rx eh ec et) s = .next t ∧ t.rsp.status = 0) ↔
      rx.length = 10 ∧ byteAt rx 0 = eh ∧ byteAt rx 1 = ec ∧ byteAt rx 9 = et ∧
        payloadSum rx % 256 = (byteAt rx 8).toNat

/-- 40_checksum_validator.md R108: every frame the encoder produces is accepted as a command frame. -/
def Obligations.EncodedFramesValidate : Prop :=
  ∀ (i : Instr) (s t : State), ((∃ mode a, i = .encMode mode a) ∨ ∃ a, i = .encQuery a) →
    exec i s = .next t → t.rsp.status = 0 →
    exec (.validate (bytes t.rsp.tx) 0xAA 0xB4 0xAB) t = .next (answered t (silent 0 0))

/-! ### The frame encoder -/

/-- 41_frame_encoder.md R120: `ENC_MODE`, in every state and for every operand. -/
def Obligations.EncModeBuildsItsFrame : Prop :=
  ∀ (a : Option Addr) (s : State),
    exec (.encMode .absent a) s =
      .next (answered s { silent 0 0 with tx := addressedFrame 0xB4 0x02 0x00 0x00 0x00 (target a) }) ∧
    exec (.encMode .active a) s =
      .next (answered s { silent 0 0 with tx := addressedFrame 0xB4 0x02 0x01 0x00 0x00 (target a) }) ∧
    exec (.encMode .query a) s =
      .next (answered s { silent 0 0 with tx := addressedFrame 0xB4 0x02 0x01 0x01 0x00 (target a) }) ∧
    exec (.encMode .invalid a) s = .next (answered s (silent 2 0))

/-- 41_frame_encoder.md R125: `ENC_QUERY`, in every state and for every operand. -/
def Obligations.EncQueryBuildsItsFrame : Prop :=
  ∀ (a : Option Addr) (s : State), exec (.encQuery a) s =
    .next (answered s { silent 0 0 with tx := addressedFrame 0xB4 0x04 0x00 0x00 0x00 (target a) })

/-- 41_frame_encoder.md R128: two successful encode requests give the same frame if and only if they are the
same operation with the same mode operand and the same effective address. -/
def Obligations.EncodingLosesNothing : Prop :=
  ∀ (s : State) (mode mode' : ModeOperand) (a a' : Option Addr) (t t' u u' : State),
    mode ≠ .invalid → mode' ≠ .invalid →
    exec (.encMode mode a) s = .next t → exec (.encMode mode' a') s = .next t' →
    exec (.encQuery a) s = .next u → exec (.encQuery a') s = .next u' →
    (t.rsp.tx = t'.rsp.tx ↔ mode = mode' ∧ target a = target a') ∧
    (u.rsp.tx = u'.rsp.tx ↔ target a = target a') ∧ t.rsp.tx ≠ u'.rsp.tx

/-- 30_encoding.md R90: what the encoder never produces. -/
def Obligations.EncoderProducesOnlyCommandFrames : Prop :=
  ∀ (i : Instr) (s t : State), ((∃ mode a, i = .encMode mode a) ∨ ∃ a, i = .encQuery a) →
    exec i s = .next t → t.rsp.status = 0 →
    ∃ j : Instr, decode (.frame (bytes t.rsp.tx)) = .ok j ∧ j.wellFormed = true ∧
      ((∃ a c, j = .cmdModeGet a c) ∨ (∃ m a c, j = .cmdModeSet m a c) ∨ ∃ a c, j = .cmdQuery a c)

/-! ### The frame decoder -/

/-- 42_frame_decoder.md R140: `DEC_READING`, for every byte sequence in every state. -/
def Obligations.DecReadingDecodesOrReports : Prop :=
  ∀ (rx : List Byte) (s : State), ∃ p : ResponsePorts, exec (.decReading rx) s = .next (answered s p) ∧
    Checked rx 0xAA 0xC0 0xAB p (p = { silent 0 0 with
      pm25Raw := BitVec.ofNat 16 ((byteAt rx 2).toNat + 256 * (byteAt rx 3).toNat),
      pm10Raw := BitVec.ofNat 16 ((byteAt rx 4).toNat + 256 * (byteAt rx 5).toNat),
      addrOut := BitVec.ofNat 16 (256 * (byteAt rx 6).toNat + (byteAt rx 7).toNat) })

/-- 42_frame_decoder.md R145: `DEC_MODE`, for every byte sequence in every state; the mode byte is judged last. -/
def Obligations.DecModeDecodesOrReports : Prop :=
  ∀ (rx : List Byte) (s : State), ∃ p : ResponsePorts, exec (.decMode rx) s = .next (answered s p) ∧
    Checked rx 0xAA 0xC5 0xAB p
      ((2 ≤ (byteAt rx 4).toNat ∧ p = silent 1 5) ∨
       ((byteAt rx 4).toNat < 2 ∧ p = { silent 0 0 with
          modeOut := BitVec.ofNat 1 (byteAt rx 4).toNat,
          addrOut := BitVec.ofNat 16 (256 * (byteAt rx 6).toNat + (byteAt rx 7).toNat) }))

/-- 30_encoding.md R92, 42_frame_decoder.md R140 and R145: a decode is the shared validation with its own
expected bytes, followed by its extraction: where that validation reports an error the decode reports the same. -/
def Obligations.DecodersBeginWithTheSharedValidation : Prop :=
  ∀ (rx : List Byte) (s t : State),
    (exec (.validate rx 0xAA 0xC0 0xAB) s = .next t →
      (t.rsp.status ≠ 0 → exec (.decReading rx) s = .next t) ∧
      (t.rsp.status = 0 → ∃ u : State, exec (.decReading rx) s = .next u ∧ u.rsp.status = 0)) ∧
    (exec (.validate rx 0xAA 0xC5 0xAB) s = .next t →
      (t.rsp.status ≠ 0 → exec (.decMode rx) s = .next t) ∧
      (t.rsp.status = 0 → ∃ u : State, exec (.decMode rx) s = .next u ∧ (u.rsp.status = 0 ∨ u.rsp.reason = 5)))

/-- 42_frame_decoder.md R149: decoding recovers every reading and every mode report. -/
def Obligations.DecodingRecoversWhatWasFramed : Prop :=
  (∀ (p q : Count) (a : Addr) (s : State), exec (.decReading (bytes (readingFrame p q a))) s =
    .next (answered s { silent 0 0 with pm25Raw := p, pm10Raw := q, addrOut := a })) ∧
  (∀ (m : Byte) (a : Addr) (x2 x3 x5 : Byte) (s : State), m = 0x00 ∨ m = 0x01 →
    exec (.decMode (bytes (modeFrame m a x2 x3 x5))) s =
      .next (answered s { silent 0 0 with modeOut := BitVec.ofNat 1 m.toNat, addrOut := a }))

/-- 42_frame_decoder.md R148: a well-formed frame of one type is corrupt with BAD_COMMAND for the operation of
another type. -/
def Obligations.WrongFrameTypeIsBadCommand : Prop :=
  ∀ (cmd d1 d2 d3 d4 : Byte) (a : Addr) (s : State),
    ((cmd = 0xB4 ∨ cmd = 0xC5) → exec (.decReading (bytes (addressedFrame cmd d1 d2 d3 d4 a.toNat))) s =
      .next (answered s (silent 1 2))) ∧
    ((cmd = 0xB4 ∨ cmd = 0xC0) → exec (.decMode (bytes (addressedFrame cmd d1 d2 d3 d4 a.toNat))) s =
      .next (answered s (silent 1 2)))

/-- 40_checksum_validator.md R105: in the four operations that receive, a sequence that is not ten bytes long
is corrupt with BAD_LENGTH whatever its bytes. -/
def Obligations.WrongLengthIsBadLength : Prop :=
  ∀ (rx : List Byte) (eh ec et : Byte) (s : State), rx.length ≠ 10 →
    exec (.decReading rx) s = .next (answered s (silent 1 6)) ∧
    exec (.decMode rx) s = .next (answered s (silent 1 6)) ∧
    exec (.validate rx eh ec et) s = .next (answered s (silent 1 6)) ∧
    exec (.chk rx) s = .next (answered s (silent 1 6))

/-- 42_frame_decoder.md R142: `dec10` gives the exact concentration `r / 10` as an integer part in 0..6553 and
one tenths digit, and no two counts share one. -/
def Obligations.DecimalReadingIsExact : Prop :=
  ∀ r r' : Count, 10 * (dec10 r).1 + (dec10 r).2 = r.toNat ∧ (dec10 r).1 ≤ 6553 ∧ (dec10 r).2 ≤ 9 ∧
    (dec10 r = dec10 r' → r = r')

/-! ### The wire-frame rows of the opcode table (the model's choice: log entries 7 and 8) -/

/-- The three command formats: the frame that carries its own checksum is built by the operation its row names,
so it stands on `tx`; nothing else changes. That a frame row runs that operation is log entry 7. -/
def Obligations.CommandFrameRowsAreBuilt : Prop :=
  (∀ (a : Addr) (c : Byte) (s : State), (Instr.cmdModeGet a c).wellFormed = true →
    exec (.cmdModeGet a c) s =
      .next (answered s { silent 0 0 with tx := addressedFrame 0xB4 0x02 0x00 0x00 0x00 a.toNat }) ∧
    encode (.cmdModeGet a c) = .frame (bytes (addressedFrame 0xB4 0x02 0x00 0x00 0x00 a.toNat))) ∧
  (∀ (a : Addr) (c : Byte) (s : State), (Instr.cmdModeSet .active a c).wellFormed = true →
    exec (.cmdModeSet .active a c) s =
      .next (answered s { silent 0 0 with tx := addressedFrame 0xB4 0x02 0x01 0x00 0x00 a.toNat }) ∧
    encode (.cmdModeSet .active a c) = .frame (bytes (addressedFrame 0xB4 0x02 0x01 0x00 0x00 a.toNat))) ∧
  (∀ (a : Addr) (c : Byte) (s : State), (Instr.cmdModeSet .query a c).wellFormed = true →
    exec (.cmdModeSet .query a c) s =
      .next (answered s { silent 0 0 with tx := addressedFrame 0xB4 0x02 0x01 0x01 0x00 a.toNat }) ∧
    encode (.cmdModeSet .query a c) = .frame (bytes (addressedFrame 0xB4 0x02 0x01 0x01 0x00 a.toNat))) ∧
  (∀ (a : Addr) (c : Byte) (s : State), (Instr.cmdQuery a c).wellFormed = true →
    exec (.cmdQuery a c) s =
      .next (answered s { silent 0 0 with tx := addressedFrame 0xB4 0x04 0x00 0x00 0x00 a.toNat }) ∧
    encode (.cmdQuery a c) = .frame (bytes (addressedFrame 0xB4 0x04 0x00 0x00 0x00 a.toNat)))

/-- The two response formats: the frame that carries its own checksum is decoded by the operation its row names.
That a frame row runs that operation is log entry 7. -/
def Obligations.ResponseFrameRowsAreDecoded : Prop :=
  (∀ (p q : Count) (a : Addr) (c : Byte) (s : State), (Instr.rspReading p q a c).wellFormed = true →
    exec (.rspReading p q a c) s =
      .next (answered s { silent 0 0 with pm25Raw := p, pm10Raw := q, addrOut := a }) ∧
    encode (.rspReading p q a c) = .frame (bytes (readingFrame p q a))) ∧
  (∀ (x2 x3 x5 : Byte) (a : Addr) (c : Byte) (s : State),
    ((Instr.rspMode x2 x3 .active x5 a c).wellFormed = true →
      exec (.rspMode x2 x3 .active x5 a c) s = .next (answered s { silent 0 0 with addrOut := a }) ∧
      encode (.rspMode x2 x3 .active x5 a c) = .frame (bytes (modeFrame 0 a x2 x3 x5))) ∧
    ((Instr.rspMode x2 x3 .query x5 a c).wellFormed = true →
      exec (.rspMode x2 x3 .query x5 a c) s = .next (answered s { silent 0 0 with modeOut := 1, addrOut := a }) ∧
      encode (.rspMode x2 x3 .query x5 a c) = .frame (bytes (modeFrame 1 a x2 x3 x5))))

/-- 30_encoding.md R78, last sentence: a frame that matches a pattern in its fixed bits but not in its checksum
byte is corrupt with BAD_CHECKSUM. That the three command formats answer so is log entry 8. -/
def Obligations.FrameWithWrongChecksumIsCorrupt : Prop :=
  ∀ (bs : List Byte) (i : Instr) (s : State), decode (.frame bs) = .ok i →
    payloadSum bs % 256 ≠ (byteAt bs 8).toNat → exec i s = .next (answered s (silent 1 4))
end

