-- ==== Sys2Proof/Laws/Wire.lean ====
section
/-! SUPPORT. Byte orders, the checksum, and frames as byte sequences: one lemma says all each can do. -/

namespace Sys2Proof.Machine

/-! ### Byte orders -/

theorem highByte_toNat (v : BitVec 16) : (highByte v).toNat = v.toNat / 256 := by
  have := v.isLt
  simp [highByte, BitVec.extractLsb'_toNat, Nat.shiftRight_eq_div_pow]
  omega

theorem lowByte_toNat (v : BitVec 16) : (lowByte v).toNat = v.toNat % 256 := by
  simp [lowByte, BitVec.extractLsb'_toNat]

theorem bigEndian_toNat (x y : Byte) : (bigEndian x y).toNat = 256 * x.toNat + y.toNat := by
  have := y.isLt
  rw [bigEndian, BitVec.toNat_append, ← Nat.shiftLeft_add_eq_or_of_lt y.isLt, Nat.shiftLeft_eq]
  omega

theorem littleEndian_toNat (x y : Byte) : (littleEndian x y).toNat = x.toNat + 256 * y.toNat := by
  rw [Nat.add_comm]
  exact bigEndian_toNat y x

theorem highByte_eq_ofNat (v : BitVec 16) : highByte v = BitVec.ofNat 8 (v.toNat / 256) := by
  rw [← highByte_toNat, BitVec.ofNat_toNat, BitVec.setWidth_eq]

theorem lowByte_eq_ofNat (v : BitVec 16) : lowByte v = BitVec.ofNat 8 (v.toNat % 256) := by
  rw [← lowByte_toNat, BitVec.ofNat_toNat, BitVec.setWidth_eq]

theorem bigEndian_eq_ofNat (x y : Byte) : bigEndian x y = BitVec.ofNat 16 (256 * x.toNat + y.toNat) := by
  rw [← bigEndian_toNat, BitVec.ofNat_toNat, BitVec.setWidth_eq]

theorem littleEndian_eq_ofNat (x y : Byte) : littleEndian x y = BitVec.ofNat 16 (x.toNat + 256 * y.toNat) := by
  rw [← littleEndian_toNat, BitVec.ofNat_toNat, BitVec.setWidth_eq]

@[simp] theorem bigEndian_high_low (a : BitVec 16) : bigEndian (highByte a) (lowByte a) = a := by
  apply BitVec.eq_of_toNat_eq
  rw [bigEndian_toNat, highByte_toNat, lowByte_toNat]
  omega

@[simp] theorem littleEndian_low_high (a : BitVec 16) : littleEndian (lowByte a) (highByte a) = a :=
  bigEndian_high_low a

@[simp] theorem highByte_bigEndian (x y : Byte) : highByte (bigEndian x y) = x := by
  apply BitVec.eq_of_toNat_eq
  have := y.isLt
  rw [highByte_toNat, bigEndian_toNat]
  omega

@[simp] theorem lowByte_bigEndian (x y : Byte) : lowByte (bigEndian x y) = y := by
  apply BitVec.eq_of_toNat_eq
  have := y.isLt
  rw [lowByte_toNat, bigEndian_toNat]
  omega

@[simp] theorem lowByte_littleEndian (x y : Byte) : lowByte (littleEndian x y) = x := lowByte_bigEndian y x
@[simp] theorem highByte_littleEndian (x y : Byte) : highByte (littleEndian x y) = y := highByte_bigEndian y x

/-! ### The checksum -/

theorem checksum_toNat (p0 p1 p2 p3 p4 p5 : Byte) :
    (checksum p0 p1 p2 p3 p4 p5).toNat =
      (p0.toNat + p1.toNat + p2.toNat + p3.toNat + p4.toNat + p5.toNat) % 256 := by
  simp [checksum]

/-- 40_checksum_validator.md R101: dropping every carry out of bit 7 gives the same byte. -/
theorem checksum_eq_add (p0 p1 p2 p3 p4 p5 : Byte) :
    checksum p0 p1 p2 p3 p4 p5 = p0 + p1 + p2 + p3 + p4 + p5 := by
  apply BitVec.eq_of_toNat_eq
  simp [checksum_toNat, BitVec.toNat_add]

theorem chkOk_iff (f : Frame) : chkOk f = true ↔ frameChecksum f = f.chk := by
  simp [chkOk]

theorem sealFrame_chkOk (cmd d1 d2 d3 d4 d5 d6 : Byte) : chkOk (sealFrame cmd d1 d2 d3 d4 d5 d6) = true := by
  simp [chkOk_iff, sealFrame, frameChecksum]

/-! ### Frames and byte sequences -/

@[simp] theorem frameOf_frameBytes (f : Frame) : frameOf (frameBytes f) = some f := rfl

@[simp] theorem frameBytes_length (f : Frame) : (frameBytes f).length = 10 := rfl

theorem frameOf_eq_some {bs : List Byte} {f : Frame} (h : frameOf bs = some f) : bs = frameBytes f := by
  unfold frameOf at h
  split at h
  · cases h
    rfl
  · cases h

/-- A byte sequence is a frame exactly when it has ten bytes. -/
theorem frameOf_cases (bs : List Byte) :
    (∃ f, bs = frameBytes f ∧ frameOf bs = some f) ∨ (bs.length ≠ 10 ∧ frameOf bs = none) := by
  cases h : frameOf bs with
  | some f => exact .inl ⟨f, frameOf_eq_some h, rfl⟩
  | none =>
    refine .inr ⟨fun hl => ?_, rfl⟩
    match bs, hl with
    | [b0, b1, b2, b3, b4, b5, b6, b7, b8, b9], _ => cases h

/-! ### Mode bytes -/

@[simp] theorem modeOfByte_modeByte (m : ReportingMode) : modeOfByte (modeByte m) = some m := by
  cases m <;> rfl

/-- 42_frame_decoder.md R146: 0x00 and 0x01 stand for a mode and no other byte does. -/
theorem modeOfByte_eq_some {b : Byte} {m : ReportingMode} (h : modeOfByte b = some m) : b = modeByte m := by
  unfold modeOfByte at h
  split at h
  · cases h
    assumption
  · split at h
    · cases h
      assumption
    · cases h

theorem modeOfByte_eq_none {b : Byte} (h0 : b ≠ 0x00) (h1 : b ≠ 0x01) : modeOfByte b = none := by
  simp only [modeOfByte, if_neg h0, if_neg h1]

/-! ### The command formats are what the encoder builds (30_encoding.md R72, R73) -/

theorem cmdModeGetFrame_sealed {a : Addr} {c : Byte} (h : chkOk (cmdModeGetFrame a c) = true) :
    cmdModeGetFrame a c = sealFrame cmdHost subMode 0x00 0x00 0x00 (highByte a) (lowByte a) := by
  rw [chkOk_iff] at h
  simp only [cmdModeGetFrame, frameChecksum, sealFrame] at h ⊢
  rw [h]

theorem cmdModeSetFrame_sealed {m : ReportingMode} {a : Addr} {c : Byte} (h : chkOk (cmdModeSetFrame m a c) = true) :
    cmdModeSetFrame m a c = sealFrame cmdHost subMode 0x01 (modeByte m) 0x00 (highByte a) (lowByte a) := by
  rw [chkOk_iff] at h
  simp only [cmdModeSetFrame, frameChecksum, sealFrame] at h ⊢
  rw [h]

theorem cmdQueryFrame_sealed {a : Addr} {c : Byte} (h : chkOk (cmdQueryFrame a c) = true) :
    cmdQueryFrame a c = sealFrame cmdHost subQuery 0x00 0x00 0x00 (highByte a) (lowByte a) := by
  rw [chkOk_iff] at h
  simp only [cmdQueryFrame, frameChecksum, sealFrame] at h ⊢
  rw [h]

end Sys2Proof.Machine
end

