-- ==== Sys2Proof/Laws/Decode.lean ====
section
/-! SUPPORT. What the decoder does on each encoded form, and what the ports carry. -/

namespace Sys2Proof

open Machine

@[simp] theorem modeOperandOf_modeCode (m : ModeOperand) : modeOperandOf (modeCode m) = m := by
  cases m <;> rfl

@[simp] theorem addressOf_driveAddress (r : RequestPorts) (a : Option Addr) : addressOf (driveAddress r a) = a := by
  cases a <;> simp [addressOf, driveAddress]

@[simp] theorem received_driveRx (r : RequestPorts) (rx : List Byte) : received (driveRx r rx) = rx := by
  simp [received, driveRx]

@[simp] theorem driveAddress_op (r : RequestPorts) (a : Option Addr) : (driveAddress r a).op = r.op := by
  cases a <;> rfl
@[simp] theorem driveAddress_mode (r : RequestPorts) (a : Option Addr) : (driveAddress r a).mode = r.mode := by
  cases a <;> rfl
@[simp] theorem driveAddress_rxLen (r : RequestPorts) (a : Option Addr) : (driveAddress r a).rxLen = r.rxLen := by
  cases a <;> rfl
@[simp] theorem driveRx_op (r : RequestPorts) (rx : List Byte) : (driveRx r rx).op = r.op := rfl
@[simp] theorem driveRx_rxLen (r : RequestPorts) (rx : List Byte) : (driveRx r rx).rxLen = rx.length := rfl
@[simp] theorem driveRx_expHdr (r : RequestPorts) (rx : List Byte) : (driveRx r rx).expHdr = r.expHdr := rfl
@[simp] theorem driveRx_expCmd (r : RequestPorts) (rx : List Byte) : (driveRx r rx).expCmd = r.expCmd := rfl
@[simp] theorem driveRx_expTail (r : RequestPorts) (rx : List Byte) : (driveRx r rx).expTail = r.expTail := rfl

/-- The received sequence has `rx_len` bytes. -/
@[simp] theorem received_length (r : RequestPorts) : (received r).length = r.rxLen := by
  simp [received]

/-- `s[i] = rx[i]` for `i < rx_len` (10_state.md R22). -/
theorem received_getD (r : RequestPorts) {k : Nat} (h : k < r.rxLen) :
    (received r).getD k 0 = r.rx.getD k 0 := by
  simp only [received, List.getD_eq_getElem?_getD, List.getElem?_take, if_pos h, List.getElem?_append]
  by_cases hk : k < r.rx.length
  · simp [hk]
  · have : k - r.rx.length < r.rxLen := by omega
    simp [hk, this]

/-- Two requests that agree on `rx_len` and on the lines below it carry the same sequence. -/
theorem received_congr {r r' : RequestPorts} (hl : r.rxLen = r'.rxLen)
    (hb : ∀ k < r.rxLen, r.rx.getD k 0 = r'.rx.getD k 0) : received r = received r' := by
  apply List.ext_getElem (by simp [hl])
  intro k h1 h2
  have hk : k < r.rxLen := by simpa using h1
  have e1 := received_getD r hk
  have e2 := received_getD r' (hl ▸ hk)
  simp only [List.getD_eq_getElem?_getD, List.getElem?_eq_getElem h1, List.getElem?_eq_getElem h2,
    Option.getD_some] at e1 e2
  rw [e1, e2]
  simpa [List.getD_eq_getElem?_getD] using hb k hk

/-- 30_encoding.md R88: what the decoder says of a request. -/
theorem decodeRequest_cases (r : RequestPorts) :
    (decodeRequest r = .ok (requestInstr r) ∧ (r.op = 0b110#3 ∨ r.op = 0b111#3 ∨ r.rxLen ≤ Config.rxCap)) ∨
    (decodeRequest r = .error .rxLenAboveCap ∧ r.op ≠ 0b110#3 ∧ r.op ≠ 0b111#3 ∧ Config.rxCap < r.rxLen) := by
  unfold decodeRequest
  split
  · exact .inl ⟨rfl, ‹_›⟩
  · refine .inr ⟨rfl, ?_⟩
    simp only [not_or, Nat.not_le] at *
    assumption

theorem decodeRequest_legal {r : RequestPorts} (h : r.rxLen ≤ Config.rxCap) :
    decodeRequest r = .ok (requestInstr r) := by
  rw [decodeRequest, if_pos (.inr (.inr h))]

/-- 30_encoding.md R78: the inversion of the frame decoder. A frame decodes to a row exactly when it is that
row's frame for some fields. -/
theorem decodeFrame_cases {f : Frame} {i : Instr} (h : decodeFrame f = .ok i) :
    (∃ a c, i = .cmdModeGet a c ∧ f = cmdModeGetFrame a c) ∨
    (∃ m a c, i = .cmdModeSet m a c ∧ f = cmdModeSetFrame m a c) ∨
    (∃ a c, i = .cmdQuery a c ∧ f = cmdQueryFrame a c) ∨
    (∃ p q a c, i = .rspReading p q a c ∧ f = rspReadingFrame p q a c) ∨
    (∃ x2 x3 m x5 a c, i = .rspMode x2 x3 m x5 a c ∧ f = rspModeFrame x2 x3 m x5 a c) := by
  obtain ⟨b0, b1, b2, b3, b4, b5, b6, b7, b8, b9⟩ := f
  simp only [decodeFrame, decodeCommand] at h
  split_ifs at h with h1 h2 h3 h4 h5 h6 h7 h8
  · cases h
    refine .inl ⟨_, _, rfl, ?_⟩
    simp_all [cmdModeGetFrame]
  · split at h <;> cases h
    have hm := modeOfByte_eq_some ‹_›
    refine .inr (.inl ⟨_, _, _, rfl, ?_⟩)
    simp_all [cmdModeSetFrame]
  · cases h
    refine .inr (.inr (.inl ⟨_, _, rfl, ?_⟩))
    simp_all [cmdQueryFrame]
  · cases h
    refine .inr (.inr (.inr (.inl ⟨_, _, _, _, rfl, ?_⟩)))
    simp_all [rspReadingFrame]
  · split at h <;> cases h
    have hm := modeOfByte_eq_some ‹_›
    refine .inr (.inr (.inr (.inr ⟨_, _, _, _, _, _, rfl, ?_⟩)))
    simp_all [rspModeFrame]

@[simp] theorem decodeFrame_cmdModeGetFrame (a : Addr) (c : Byte) :
    decodeFrame (cmdModeGetFrame a c) = .ok (.cmdModeGet a c) := by
  simp [decodeFrame, decodeCommand, cmdModeGetFrame]
@[simp] theorem decodeFrame_cmdModeSetFrame (m : ReportingMode) (a : Addr) (c : Byte) :
    decodeFrame (cmdModeSetFrame m a c) = .ok (.cmdModeSet m a c) := by
  simp [decodeFrame, decodeCommand, cmdModeSetFrame]
@[simp] theorem decodeFrame_cmdQueryFrame (a : Addr) (c : Byte) :
    decodeFrame (cmdQueryFrame a c) = .ok (.cmdQuery a c) := by
  simp [decodeFrame, decodeCommand, cmdQueryFrame, subQuery, subMode]
@[simp] theorem decodeFrame_rspReadingFrame (p q : Count) (a : Addr) (c : Byte) :
    decodeFrame (rspReadingFrame p q a c) = .ok (.rspReading p q a c) := by
  simp [decodeFrame, rspReadingFrame, cmdReading, cmdHost]
@[simp] theorem decodeFrame_rspModeFrame (x2 x3 : Byte) (m : ReportingMode) (x5 : Byte) (a : Addr) (c : Byte) :
    decodeFrame (rspModeFrame x2 x3 m x5 a c) = .ok (.rspMode x2 x3 m x5 a c) := by
  simp [decodeFrame, rspModeFrame, cmdModeReport, cmdReading, cmdHost]

@[simp] theorem decode_frameBytes (f : Frame) : decode (.frame (frameBytes f)) = decodeFrame f := rfl

theorem decode_request_legal {r : RequestPorts} (h : r.rxLen ≤ Config.rxCap) :
    decode (.request r) = .ok (requestInstr r) :=
  decodeRequest_legal h

theorem ten_le_rxCap : 10 ≤ Config.rxCap := Nat.le_add_left 10 _

end Sys2Proof
end

