-- ==== Sys2Proof/Laws/Operands.lean ====
section
/-! SUPPORT. What the shared validation can do: one inversion lemma, cited by every proof about a decode. -/

namespace Sys2Proof.Machine

/-- 40_checksum_validator.md R106: the outcome of checks 1 to 4, by the first that fails. -/
theorem checkFrame_cases (f : Frame) (eh ec et : Byte) :
    (f.header ≠ eh ∧ checkFrame f eh ec et = .error .badHeader) ∨
    (f.header = eh ∧ f.cmd ≠ ec ∧ checkFrame f eh ec et = .error .badCommand) ∨
    (f.header = eh ∧ f.cmd = ec ∧ f.tail ≠ et ∧ checkFrame f eh ec et = .error .badTail) ∨
    (f.header = eh ∧ f.cmd = ec ∧ f.tail = et ∧ frameChecksum f ≠ f.chk ∧
      checkFrame f eh ec et = .error .badChecksum) ∨
    (f.header = eh ∧ f.cmd = ec ∧ f.tail = et ∧ frameChecksum f = f.chk ∧ checkFrame f eh ec et = .ok f) := by
  unfold checkFrame
  split_ifs <;> simp_all

@[simp] theorem validated_frameBytes (f : Frame) (eh ec et : Byte) :
    validated (frameBytes f) eh ec et = checkFrame f eh ec et := rfl

/-- 40_checksum_validator.md R105: a sequence that is not ten bytes long fails before anything is compared. -/
theorem validated_badLength {rx : List Byte} (h : rx.length ≠ 10) (eh ec et : Byte) :
    validated rx eh ec et = .error .badLength := by
  rcases frameOf_cases rx with ⟨f, rfl, -⟩ | ⟨-, hn⟩
  · exact absurd rfl h
  · simp [validated, checkLength, hn]

theorem checkLength_badLength {rx : List Byte} (h : rx.length ≠ 10) : checkLength rx = .error .badLength := by
  rcases frameOf_cases rx with ⟨f, rfl, -⟩ | ⟨-, hn⟩
  · exact absurd rfl h
  · simp [checkLength, hn]

@[simp] theorem checkLength_frameBytes (f : Frame) : checkLength (frameBytes f) = .ok f := rfl

/-- 40_checksum_validator.md R107: the frames the validation accepts. -/
theorem checkFrame_ok_iff (f : Frame) (eh ec et : Byte) :
    checkFrame f eh ec et = .ok f ↔
      f.header = eh ∧ f.cmd = ec ∧ f.tail = et ∧ frameChecksum f = f.chk := by
  rcases checkFrame_cases f eh ec et with h | h | h | h | h <;> simp_all

@[simp] theorem orRaise_ok (f : Frame) (k : Frame → Response) : orRaise (.ok f) k = k f := rfl
@[simp] theorem orRaise_error (r : Reason) (k : Frame → Response) : orRaise (.error r) k = .corrupt r := rfl

/-- What a check followed by a continuation answers: the error of the check, or what the continuation gives. -/
theorem orRaise_cases (c : Except Reason Frame) (k : Frame → Response) :
    (∃ r, c = .error r ∧ orRaise c k = .corrupt r) ∨ (∃ f, c = .ok f ∧ orRaise c k = k f) := by
  cases c with
  | error r => exact .inl ⟨r, rfl, rfl⟩
  | ok f => exact .inr ⟨f, rfl, rfl⟩

end Sys2Proof.Machine
end

