-- ==== Sys2Proof/Laws/State.lean ====
section
/-! SUPPORT. One lemma per field per update of State, true by unfolding once. -/

namespace Sys2Proof.Machine

@[simp] theorem respond_inputs (r : Response) (s : State) : (respond r s).inputs = s.inputs := rfl
@[simp] theorem respond_rsp (r : Response) (s : State) : (respond r s).rsp = portsOf r := rfl
@[simp] theorem respond_responded (r : Response) (s : State) : (respond r s).responded = true := rfl
@[simp] theorem respond_freeDraws (r : Response) (s : State) : (respond r s).freeDraws = s.freeDraws := rfl

@[simp] theorem takeReset_inputs (s : State) : (takeReset s).inputs = s.inputs := rfl
@[simp] theorem takeReset_responded (s : State) : (takeReset s).responded = false := rfl
@[simp] theorem takeReset_freeDraws (s : State) : (takeReset s).freeDraws = s.freeDraws + 1 := rfl

@[simp] theorem State.afterTaking_inputs (s : State) (rest : List HostInput) : (s.afterTaking rest).inputs = rest := rfl
@[simp] theorem State.afterTaking_rsp (s : State) (rest : List HostInput) : (s.afterTaking rest).rsp = s.rsp := rfl
@[simp] theorem State.afterTaking_responded (s : State) (rest : List HostInput) :
    (s.afterTaking rest).responded = s.responded := rfl
@[simp] theorem State.afterTaking_freeDraws (s : State) (rest : List HostInput) :
    (s.afterTaking rest).freeDraws = s.freeDraws := rfl

@[simp] theorem reset_inputs : State.reset.inputs = [] := rfl
@[simp] theorem reset_responded : State.reset.responded = false := rfl

end Sys2Proof.Machine
end

