-- ==== Sys2Proof/Laws/Exec.lean ====
section
/-! SUPPORT. What executing an instruction can do, said once: it gives one response and changes nothing
else, or the instruction is a reserved code. -/

namespace Sys2Proof.Laws

open Machine

/-- The response of an instruction in the abstract view; none for the reserved codes. -/
def replyOf : Instr → Option Response
  | .encMode mode address => some (encModeResponse mode address)
  | .encQuery address => some (encQueryResponse address)
  | .decReading rx => some (decReadingResponse rx)
  | .decMode rx => some (decModeResponse rx)
  | .validate rx eh ec et => some (validateResponse rx eh ec et)
  | .chk rx => some (chkResponse rx)
  | .reservedOp6 => none
  | .reservedOp7 => none
  | .cmdModeGet a c => some (commandResponse (cmdModeGetFrame a c) (encModeResponse .absent (some a)))
  | .cmdModeSet m a c => some (commandResponse (cmdModeSetFrame m a c) (encModeResponse (settingOperand m) (some a)))
  | .cmdQuery a c => some (commandResponse (cmdQueryFrame a c) (encQueryResponse (some a)))
  | .rspReading p q a c => some (decReadingResponse (frameBytes (rspReadingFrame p q a c)))
  | .rspMode x2 x3 m x5 a c => some (decModeResponse (frameBytes (rspModeFrame x2 x3 m x5 a c)))

/-- An instruction with a response gives it, whatever the state. -/
theorem exec_of_reply {i : Instr} {r : Response} (h : replyOf i = some r) (s : State) :
    exec i s = .next (respond r s) := by
  cases i <;> cases h <;> rfl

/-- The inversion of `exec`. -/
theorem exec_cases (i : Instr) (s : State) :
    (∃ r, replyOf i = some r ∧ exec i s = .next (respond r s)) ∨
    (i = .reservedOp6 ∧ exec i s = .refused .reservedOp6) ∨
    (i = .reservedOp7 ∧ exec i s = .refused .reservedOp7) := by
  cases i <;> first
    | exact .inl ⟨_, rfl, rfl⟩
    | exact .inr (.inl ⟨rfl, rfl⟩)
    | exact .inr (.inr ⟨rfl, rfl⟩)

/-- If `exec` gives a next state, that state is the response given in the old one. -/
theorem exec_next {i : Instr} {s t : State} (h : exec i s = .next t) :
    ∃ r, replyOf i = some r ∧ t = respond r s := by
  rcases exec_cases i s with ⟨r, hr, he⟩ | ⟨-, he⟩ | ⟨-, he⟩ <;> rw [he] at h <;> cases h
  exact ⟨r, hr, rfl⟩

end Sys2Proof.Laws
end

