-- ==== Sys2Proof/Laws/PerInstr.lean ====
section
/-! SUPPORT. Laws stated per instruction. `EncodesItsRow`: the encoded form of an instruction has the fixed
bits of its row of spec/opcode_table.json: the `op` code of a request row, the header, command id and tail
of a frame row. -/

namespace Sys2Proof.Laws

open Machine

/-- A request whose `op` port holds the code `op`. -/
def HasOp (e : Encoded) (op : BitVec 3) : Prop := ∃ r : RequestPorts, e = .request r ∧ r.op = op

/-- A frame of the form `AA cmd ... AB`. -/
def HasFrameOf (e : Encoded) (cmd : Byte) : Prop :=
  ∃ f : Frame, e = .frame (frameBytes f) ∧ f.header = 0xAA ∧ f.cmd = cmd ∧ f.tail = 0xAB

def EncodesItsRow.Statement : Instr → Prop
  | .encMode mode address => HasOp (encode (.encMode mode address)) 0
  | .encQuery address => HasOp (encode (.encQuery address)) 1
  | .decReading rx => HasOp (encode (.decReading rx)) 2
  | .decMode rx => HasOp (encode (.decMode rx)) 3
  | .validate rx eh ec et => HasOp (encode (.validate rx eh ec et)) 4
  | .chk rx => HasOp (encode (.chk rx)) 5
  | .reservedOp6 => HasOp (encode .reservedOp6) 6
  | .reservedOp7 => HasOp (encode .reservedOp7) 7
  | .cmdModeGet a c => HasFrameOf (encode (.cmdModeGet a c)) 0xB4
  | .cmdModeSet m a c => HasFrameOf (encode (.cmdModeSet m a c)) 0xB4
  | .cmdQuery a c => HasFrameOf (encode (.cmdQuery a c)) 0xB4
  | .rspReading p q a c => HasFrameOf (encode (.rspReading p q a c)) 0xC0
  | .rspMode x2 x3 m x5 a c => HasFrameOf (encode (.rspMode x2 x3 m x5 a c)) 0xC5

theorem EncodesItsRow.encMode (mode : ModeOperand) (address : Option Addr) :
    EncodesItsRow.Statement (.encMode mode address) :=
  ⟨_, rfl, driveAddress_op _ _⟩
theorem EncodesItsRow.encQuery (address : Option Addr) : EncodesItsRow.Statement (.encQuery address) :=
  ⟨_, rfl, driveAddress_op _ _⟩
theorem EncodesItsRow.decReading (rx : List Byte) : EncodesItsRow.Statement (.decReading rx) := ⟨_, rfl, rfl⟩
theorem EncodesItsRow.decMode (rx : List Byte) : EncodesItsRow.Statement (.decMode rx) := ⟨_, rfl, rfl⟩
theorem EncodesItsRow.validate (rx : List Byte) (eh ec et : Byte) :
    EncodesItsRow.Statement (.validate rx eh ec et) :=
  ⟨_, rfl, rfl⟩
theorem EncodesItsRow.chk (rx : List Byte) : EncodesItsRow.Statement (.chk rx) := ⟨_, rfl, rfl⟩
theorem EncodesItsRow.reservedOp6 : EncodesItsRow.Statement .reservedOp6 := ⟨_, rfl, rfl⟩
theorem EncodesItsRow.reservedOp7 : EncodesItsRow.Statement .reservedOp7 := ⟨_, rfl, rfl⟩
theorem EncodesItsRow.cmdModeGet (a : Addr) (c : Byte) : EncodesItsRow.Statement (.cmdModeGet a c) :=
  ⟨_, rfl, rfl, rfl, rfl⟩
theorem EncodesItsRow.cmdModeSet (m : ReportingMode) (a : Addr) (c : Byte) :
    EncodesItsRow.Statement (.cmdModeSet m a c) :=
  ⟨_, rfl, rfl, rfl, rfl⟩
theorem EncodesItsRow.cmdQuery (a : Addr) (c : Byte) : EncodesItsRow.Statement (.cmdQuery a c) :=
  ⟨_, rfl, rfl, rfl, rfl⟩
theorem EncodesItsRow.rspReading (p q : Count) (a : Addr) (c : Byte) :
    EncodesItsRow.Statement (.rspReading p q a c) :=
  ⟨_, rfl, rfl, rfl, rfl⟩
theorem EncodesItsRow.rspMode (x2 x3 : Byte) (m : ReportingMode) (x5 : Byte) (a : Addr) (c : Byte) :
    EncodesItsRow.Statement (.rspMode x2 x3 m x5 a c) :=
  ⟨_, rfl, rfl, rfl, rfl⟩

end Sys2Proof.Laws
end

