-- ==== Sys2Proof/Laws/Responses.lean ====
section
/-! SUPPORT. Which responses each operation can give: one lemma per operation. -/

namespace Sys2Proof.Machine

/-- `CHK`: an error of length, or the sum and its check. -/
theorem chkResponse_cases (rx : List Byte) :
    (rx.length ≠ 10 ∧ chkResponse rx = .corrupt .badLength) ∨
    (∃ f, rx = frameBytes f ∧ chkResponse rx = .sum (frameChecksum f) (chkOk f)) := by
  rcases frameOf_cases rx with ⟨f, rfl, -⟩ | ⟨hl, -⟩
  · exact .inr ⟨f, rfl, rfl⟩
  · exact .inl ⟨hl, by simp [chkResponse, checkLength_badLength hl]⟩

/-- The shared validation followed by `k`: an error of the validation, or `k` of the frame that passed it. -/
theorem validated_cases (rx : List Byte) (eh ec et : Byte) (k : Frame → Response) :
    (∃ r, r ≠ .badMode ∧ validated rx eh ec et = .error r ∧ orRaise (validated rx eh ec et) k = .corrupt r) ∨
    (∃ f, rx = frameBytes f ∧ validated rx eh ec et = .ok f ∧ orRaise (validated rx eh ec et) k = k f) := by
  rcases frameOf_cases rx with ⟨f, rfl, -⟩ | ⟨hl, -⟩
  · rw [validated_frameBytes]
    rcases checkFrame_cases f eh ec et with ⟨-, h⟩ | ⟨-, -, h⟩ | ⟨-, -, -, h⟩ | ⟨-, -, -, -, h⟩ | ⟨-, -, -, -, h⟩ <;>
      rw [h]
    · exact .inl ⟨_, by simp, rfl, rfl⟩
    · exact .inl ⟨_, by simp, rfl, rfl⟩
    · exact .inl ⟨_, by simp, rfl, rfl⟩
    · exact .inl ⟨_, by simp, rfl, rfl⟩
    · exact .inr ⟨f, rfl, rfl, rfl⟩
  · rw [validated_badLength hl]
    exact .inl ⟨_, by simp, rfl, rfl⟩

theorem validateResponse_cases (rx : List Byte) (eh ec et : Byte) :
    (∃ r, r ≠ .badMode ∧ validateResponse rx eh ec et = .corrupt r) ∨ validateResponse rx eh ec et = .valid := by
  rcases validated_cases rx eh ec et fun _ => .valid with ⟨r, hr, -, h⟩ | ⟨_, -, -, h⟩
  · exact .inl ⟨r, hr, h⟩
  · exact .inr h

theorem decReadingResponse_cases (rx : List Byte) :
    (∃ r, r ≠ .badMode ∧ decReadingResponse rx = .corrupt r) ∨ (∃ p q a, decReadingResponse rx = .reading p q a) := by
  rcases validated_cases rx headerByte cmdReading tailByte readingOf with ⟨r, hr, -, h⟩ | ⟨_, -, -, h⟩
  · exact .inl ⟨r, hr, h⟩
  · exact .inr ⟨_, _, _, h⟩

theorem decModeResponse_cases (rx : List Byte) :
    (∃ r, decModeResponse rx = .corrupt r) ∨ (∃ m a, decModeResponse rx = .mode m a) := by
  rcases validated_cases rx headerByte cmdModeReport tailByte modeReportOf with ⟨r, -, -, h⟩ | ⟨f, -, -, h⟩
  · exact .inl ⟨r, h⟩
  · unfold decModeResponse
    rw [h, modeReportOf]
    split
    · exact .inr ⟨_, _, rfl⟩
    · exact .inl ⟨_, rfl⟩

theorem encModeResponse_cases (mode : ModeOperand) (a : Option Addr) :
    (mode = .invalid ∧ encModeResponse mode a = .invalidArg) ∨
    (mode ≠ .invalid ∧ encModeResponse mode a = .frame (modeCommand mode (effectiveAddress a))) := by
  by_cases h : mode = .invalid
  · exact .inl ⟨h, by simp [encModeResponse, h, raiseInvalidArgument]⟩
  · exact .inr ⟨h, by simp [encModeResponse, h]⟩

/-- A command frame: BAD_CHECKSUM when its checksum byte is wrong, else the response of the operation that
builds it. Its other bytes are right by form. -/
theorem commandResponse_cases {f : Frame} (hh : f.header = headerByte) (hc : f.cmd = cmdHost) (ht : f.tail = tailByte)
    (built : Response) :
    (chkOk f = true ∧ commandResponse f built = built) ∨
    (frameChecksum f ≠ f.chk ∧ commandResponse f built = .corrupt .badChecksum) := by
  unfold commandResponse
  rcases checkFrame_cases f headerByte cmdHost tailByte with ⟨h, -⟩ | ⟨-, h, -⟩ | ⟨-, -, h, -⟩ | ⟨-, -, -, h, e⟩ |
    ⟨-, -, -, h, e⟩
  · exact absurd hh h
  · exact absurd hc h
  · exact absurd ht h
  · exact .inr ⟨h, by rw [e, orRaise_error]⟩
  · exact .inl ⟨(chkOk_iff f).2 h, by rw [e, orRaise_ok]⟩

/-- The port encoding of a sum. -/
theorem portsOf_sum (c : Byte) (ok : Bool) :
    portsOf (.sum c ok) = { okNoData with sum := c, matched := if ok then 1 else 0 } := by
  cases ok <;> rfl

end Sys2Proof.Machine
end

