-- ==== Sys2Proof/Laws/Step.lean ====
section
/-! SUPPORT. What one step can do, said once, and what a run over a list of legal inputs does. -/

namespace Sys2Proof.Laws

open Machine

theorem step_idle {s : State} (h : s.inputs = []) : step s = .next s := by
  unfold step
  rw [h]

theorem step_reset {s : State} {cut : Option RequestPorts} {rest : List HostInput}
    (h : s.inputs = .reset cut :: rest) : step s = .next (takeReset (s.afterTaking rest)) := by
  unfold step
  rw [h]

theorem step_present {s : State} {e : Encoded} {i : Instr} {rest : List HostInput}
    (h : s.inputs = .present e :: rest) (hd : decode e = .ok i) : step s = exec i (s.afterTaking rest) := by
  unfold step
  simp only [h, hd]

theorem step_rejected {s : State} {e : Encoded} {d : DecodeError} {rest : List HostInput}
    (h : s.inputs = .present e :: rest) (hd : decode e = .error d) : step s = .refused (refusalOf d) := by
  unfold step
  simp only [h, hd]

/-- The inversion of `step` to a next state. -/
theorem step_next {s t : State} (h : step s = .next t) :
    (s.inputs = [] ∧ t = s) ∨
    (∃ cut rest, s.inputs = .reset cut :: rest ∧ t = takeReset (s.afterTaking rest)) ∨
    (∃ e i r rest, s.inputs = .present e :: rest ∧ decode e = .ok i ∧ replyOf i = some r ∧
      t = respond r (s.afterTaking rest)) := by
  match hi : s.inputs with
  | [] =>
    rw [step_idle hi] at h
    cases h
    exact .inl ⟨rfl, rfl⟩
  | .reset cut :: rest =>
    rw [step_reset hi] at h
    cases h
    exact .inr (.inl ⟨cut, rest, rfl, rfl⟩)
  | .present e :: rest =>
    cases hd : decode e with
    | error d =>
      rw [step_rejected hi hd] at h
      cases h
    | ok i =>
      rw [step_present hi hd] at h
      obtain ⟨r, hr, rfl⟩ := exec_next h
      exact .inr (.inr ⟨e, i, r, rest, rfl, hd, hr, rfl⟩)

/-- The port encoding of every response is lawful. -/
theorem portsOf_lawful (r : Response) : (portsOf r).Lawful := by
  cases r with
  | corrupt r => cases r <;> decide
  | invalidArg => decide
  | _ => simp [portsOf, okNoData, ResponsePorts.Lawful]

/-- An instruction decoded from a legal request is no reserved code. -/
theorem requestInstr_reply {r : RequestPorts} (h : r.op.toNat < 6) : ∃ x, replyOf (requestInstr r) = some x := by
  have h6 : r.op ≠ 0b110#3 := by
    rintro hr
    simp [hr] at h
  have h7 : r.op ≠ 0b111#3 := by
    rintro hr
    simp [hr] at h
  have : r.op = 0b000#3 ∨ r.op = 0b001#3 ∨ r.op = 0b010#3 ∨ r.op = 0b011#3 ∨ r.op = 0b100#3 ∨ r.op = 0b101#3 := by
    bv_omega
  rcases this with h | h | h | h | h | h <;> simp [requestInstr, h, replyOf]

/-- No wire frame decodes to a reserved code. -/
theorem decodeFrame_reply {f : Frame} {i : Instr} (h : decodeFrame f = .ok i) : ∃ x, replyOf i = some x := by
  unfold decodeFrame decodeCommand at h
  simp only at h
  split_ifs at h <;> (try split at h) <;> cases h <;> exact ⟨_, rfl⟩

/-- Everything the host may present is answered (10_state.md R24). -/
theorem legal_reply {e : Encoded} (h : e.Legal) : ∃ i r, decode e = .ok i ∧ replyOf i = some r := by
  cases e with
  | request r =>
    obtain ⟨x, hx⟩ := requestInstr_reply h.1
    exact ⟨_, x, decodeRequest_legal h.2, hx⟩
  | frame bytes =>
    obtain ⟨i, hi⟩ := h
    have hd := hi
    unfold decode at hd
    cases hf : frameOf bytes with
    | none => simp [hf] at hd
    | some f =>
      obtain ⟨x, hx⟩ := decodeFrame_reply (by simpa [hf] using hd)
      exact ⟨i, x, hi, hx⟩

/-- A legal input at the head of the list is always taken. -/
theorem step_legal {s : State} {x : HostInput} {rest : List HostInput} (h : s.inputs = x :: rest) (hx : x.Legal) :
    ∃ t, step s = .next t ∧ t.inputs = rest := by
  cases x with
  | reset cut => exact ⟨_, step_reset h, rfl⟩
  | present e =>
    obtain ⟨i, r, hd, hr⟩ := legal_reply hx
    exact ⟨_, (step_present h hd).trans (exec_of_reply hr _), rfl⟩

/-! ### Runs -/

theorem run_one (s : State) : core.run 1 s = step s := by
  show core.run 1 s = core.step s
  simp only [Host.Core.run]
  cases core.step s <;> rfl

theorem run_succ {s t : State} (n : Nat) (h : step s = .next t) : core.run (n + 1) s = core.run n t := by
  have h' : core.step s = .next t := h
  simp only [Host.Core.run, h']

/-- One step after a run that got through. -/
theorem run_then_step {n : Nat} : ∀ {s t : State}, core.run n s = .next t → core.run (n + 1) s = step t := by
  induction n with
  | zero =>
    intro s t h
    cases h
    exact run_one s
  | succ n ih =>
    intro s t h
    cases hs : step s with
    | next u =>
      rw [run_succ n hs] at h
      rw [run_succ _ hs]
      exact ih h
    | fault r => exact nomatch r
    | refused r =>
      have hs' : core.step s = .refused r := hs
      simp only [Host.Core.run, hs'] at h
      cases h

/-- Running over a list of legal inputs takes them all and leaves the rest. -/
theorem run_legal (es : List HostInput) : ∀ (s : State) (rest : List HostInput), s.inputs = es ++ rest →
    (∀ x ∈ es, x.Legal) → ∃ t : State, core.run es.length s = .next t ∧ t.inputs = rest := by
  induction es with
  | nil =>
    intro s rest h _
    exact ⟨s, rfl, h⟩
  | cons x xs ih =>
    intro s rest h hl
    obtain ⟨t, ht, hi⟩ := step_legal h (hl x (by simp))
    obtain ⟨u, hu, hr⟩ := ih t rest hi fun y hy => hl y (by simp [hy])
    exact ⟨u, (run_succ _ ht).trans hu, hr⟩

end Sys2Proof.Laws
end

