-- ==== Sys2Proof/Tests/Slice0.lean ====
section
/-! SUPPORT. Tests. Expected values are the spec's own: the source examples S1 to S9 and the vectors V1 to V140
of 95_test_vectors.md, and words written out from 30_encoding.md R78 and R84. Then one witness for every statement that has
hypotheses. -/

namespace Sys2Proof.Tests

open Machine Spec

/-- The reset state with one request or frame presented. -/
def presenting (e : Encoded) : State := { State.reset with inputs := [.present e] }

/-- The response ports after an outcome that is a next state. -/
def portsAfter : Host.Outcome State Fault Refusal → Option ResponsePorts
  | .next t => some t.rsp
  | _ => none

/-- The refusal of an outcome. -/
def refusalIn : Host.Outcome State Fault Refusal → Option Refusal
  | .refused q => some q
  | _ => none

/-- S6, V40: a valid reading frame. -/
def readingV40 : List Byte := [0xAA, 0xC0, 0xD4, 0x04, 0x3A, 0x0A, 0xA1, 0x60, 0x1D, 0xAB]
/-- S8, V64: a valid mode-report frame. -/
def modeV64 : List Byte := [0xAA, 0xC5, 0x02, 0x01, 0x01, 0x00, 0xA1, 0x60, 0x05, 0xAB]
/-- A response with a frame. -/
def okFrame (f : Frame) : Option ResponsePorts := some { silent 0 0 with tx := f }

/-! ### Well-formedness: an ill-formed term for each check, refused -/

theorem test_wf_cmdModeGet : (Instr.cmdModeGet 0xA160 0x04).wellFormed = false := by decide
theorem test_wf_cmdModeSet : (Instr.cmdModeSet .query 0xA160 0xA1).wellFormed = false := by decide
theorem test_wf_cmdQuery : (Instr.cmdQuery 0xFFFF 0x00).wellFormed = false := by decide
theorem test_wf_rspReading : (Instr.rspReading 0x3412 0x7856 0xBEEF 0xC0).wellFormed = false := by decide
theorem test_wf_rspMode : (Instr.rspMode 2 1 .query 0 0xA160 0x06).wellFormed = false := by decide
theorem test_wf_decReading : (Instr.decReading (List.replicate (Config.rxCap + 1) 0)).wellFormed = false := by
  simp [Instr.wellFormed, fitsRx]
theorem test_wf_decMode : (Instr.decMode (List.replicate (Config.rxCap + 1) 0)).wellFormed = false := by
  simp [Instr.wellFormed, fitsRx]
theorem test_wf_validate : (Instr.validate (List.replicate (Config.rxCap + 1) 0) 0 0 0).wellFormed = false := by
  simp [Instr.wellFormed, fitsRx]
theorem test_wf_chk : (Instr.chk (List.replicate (Config.rxCap + 1) 0)).wellFormed = false := by
  simp [Instr.wellFormed, fitsRx]
theorem test_wf_ten_bytes_fit : (Instr.chk readingV40).wellFormed = true := by decide

/-! ### Decoding: every constructor by a word written out from the spec's encoding -/

/-- The ports of V114: `op=0b000 mode=0b11 addr_en=1 addr=0xA160`. -/
theorem test_decode_encMode :
    decode (.request ⟨0b000, 0b11, 0b1, 0xA160, 0, [], 0, 0, 0⟩) = .ok (.encMode .query (some 0xA160)) := rfl
/-- V118: `mode=0b01 addr_en=0`; the address lines are not read. -/
theorem test_decode_encMode_invalid :
    decode (.request ⟨0b000, 0b01, 0b0, 0x1234, 3, [7], 9, 9, 9⟩) = .ok (.encMode .invalid none) := rfl
theorem test_decode_encMode_active :
    decode (.request ⟨0b000, 0b10, 0b0, 0, 0, [], 0, 0, 0⟩) = .ok (.encMode .active none) := rfl
/-- V140: `mode=0b01` on the unused port. -/
theorem test_decode_encQuery :
    decode (.request ⟨0b001, 0b01, 0b0, 0, 0, [], 0, 0, 0⟩) = .ok (.encQuery none) := rfl
theorem test_decode_decReading :
    decode (.request ⟨0b010, 0, 0, 0, 2, [0xAA, 0xC0, 0xD4], 0, 0, 0⟩) = .ok (.decReading [0xAA, 0xC0]) := rfl
theorem test_decode_decMode :
    decode (.request ⟨0b011, 0, 0, 0, 10, modeV64, 0, 0, 0⟩) = .ok (.decMode modeV64) := rfl
theorem test_decode_validate :
    decode (.request ⟨0b100, 0, 0, 0, 1, [0xAA], 0xAA, 0xB4, 0xAB⟩) = .ok (.validate [0xAA] 0xAA 0xB4 0xAB) := rfl
theorem test_decode_chk : decode (.request ⟨0b101, 0, 0, 0, 0, [0xAA], 0, 0, 0⟩) = .ok (.chk []) := rfl
/-- V95, V96: reserved whatever else the request holds. -/
theorem test_decode_reservedOp6 :
    decode (.request ⟨0b110, 3, 1, 7, Config.rxCap + 1, [], 0, 0, 0⟩) = .ok .reservedOp6 := rfl
theorem test_decode_reservedOp7 : decode (.request ⟨0b111, 0, 0, 0, 0, [], 0, 0, 0⟩) = .ok .reservedOp7 := rfl
/-- V97: `op=0b010 rx_len=RX_CAP+1`. -/
theorem test_decode_rxLen_above_cap :
    decode (.request ⟨0b010, 0, 0, 0, Config.rxCap + 1, [], 0, 0, 0⟩) = .error .rxLenAboveCap := by
  simp [decode, decodeRequest]

/-- The patterns of 30_encoding.md R78, bit by bit, `a = 0xA160`, `c` the checksum of V102. -/
theorem test_decode_cmdModeGet : decode (.frame
    [0b10101010, 0b10110100, 0b00000010, 0b00000000, 0b00000000, 0b00000000, 0b10100001, 0b01100000, 0b00000011, 0b10101011])
    = .ok (.cmdModeGet 0xA160 0x03) := rfl
/-- S5, V114, with `m = 1`. -/
theorem test_decode_cmdModeSet : decode (.frame
    [0b10101010, 0b10110100, 0b00000010, 0b00000001, 0b00000001, 0b00000000, 0b10100001, 0b01100000, 0b00000101, 0b10101011])
    = .ok (.cmdModeSet .query 0xA160 0x05) := rfl
/-- V137. -/
theorem test_decode_cmdQuery : decode (.frame
    [0b10101010, 0b10110100, 0b00000100, 0b00000000, 0b00000000, 0b00000000, 0b00010010, 0b00110100, 0b01001010, 0b10101011])
    = .ok (.cmdQuery 0x1234 0x4A) := rfl
/-- V43: the byte pairs `01 00` and `00 01` are the counts 1 and 256, `01 02` the address 0x0102. -/
theorem test_decode_rspReading : decode (.frame
    [0b10101010, 0b11000000, 0b00000001, 0b00000000, 0b00000000, 0b00000001, 0b00000001, 0b00000010, 0b00000101, 0b10101011])
    = .ok (.rspReading 1 256 0x0102 0x05) := rfl
theorem test_decode_rspMode : decode (.frame modeV64) = .ok (.rspMode 0x02 0x01 .query 0x00 0xA160 0x05) := rfl
/-- 30_encoding.md R90: get with query flag 1 is no frame of the table; nor is a mode byte of 0x02, or nine bytes. -/
theorem test_decode_get_with_query_flag :
    decode (.frame [0xAA, 0xB4, 0x02, 0x00, 0x01, 0x00, 0xA1, 0x60, 0x04, 0xAB]) = .error .noFrameFormat := rfl
theorem test_decode_mode_byte_two :
    decode (.frame [0xAA, 0xC5, 0x02, 0x00, 0x02, 0x00, 0xA1, 0x60, 0x05, 0xAB]) = .error .noFrameFormat := rfl
theorem test_decode_nine_bytes :
    decode (.frame [0xAA, 0xC5, 0x02, 0x00, 0x02, 0x00, 0xA1, 0x60, 0x05]) = .error .notTenBytes := rfl

/-- The word `W` of S6 has offset 0 in its top byte. -/
theorem test_table_word : decodeTableWord 80 0xAAC0D4043A0AA1601DAB = some (.rspReading 1236 2618 0xA160 0x1D) := by decide
theorem test_fetch_word_runs_next :
    portsAfter (step (State.reset.withFetchWord 8 1)) = okFrame ⟨0xAA, 0xB4, 0x04, 0, 0, 0, 0xFF, 0xFF, 0x02, 0xAB⟩ := by
  decide
theorem test_fetch_frame_runs_next :
    portsAfter (step (State.reset.withFetchWord 80 0xAAB402010100A16005AB)) =
      okFrame ⟨0xAA, 0xB4, 0x02, 0x01, 0x01, 0, 0xA1, 0x60, 0x05, 0xAB⟩ := by
  decide

/-! ### The meanings, on the spec's vectors -/

/-- V100: the broadcast checksum 0x200 wraps to 0x00. -/
theorem test_encMode_broadcast_wraps : portsAfter (exec (.encMode .absent none) State.reset) =
    okFrame ⟨0xAA, 0xB4, 0x02, 0, 0, 0, 0xFF, 0xFF, 0x00, 0xAB⟩ := by decide
/-- V119. -/
theorem test_encMode_invalid : portsAfter (exec (.encMode .invalid (some 0xA160)) State.reset) = some (silent 2 0) := by
  decide
/-- V139. -/
theorem test_encQuery : portsAfter (exec (.encQuery (some 0xFDFF)) State.reset) =
    okFrame ⟨0xAA, 0xB4, 0x04, 0, 0, 0, 0xFD, 0xFF, 0x00, 0xAB⟩ := by decide
/-- V47. -/
theorem test_decReading : portsAfter (exec (.decReading [0xAA, 0xC0, 0xE7, 0x03, 0xE8, 0x03, 0x00, 0xAB, 0x80, 0xAB]) State.reset) =
    some { silent 0 0 with pm25Raw := 999, pm10Raw := 1000, addrOut := 0x00AB } := by decide
/-- V57: tail and checksum wrong, tail first. -/
theorem test_decReading_tail_before_checksum :
    portsAfter (exec (.decReading [0xAA, 0xC0, 0xD4, 0x04, 0x3A, 0x0A, 0xA1, 0x60, 0x1E, 0xAA]) State.reset) =
      some (silent 1 3) := by decide
/-- V91: the address bytes swapped are read big-endian. -/
theorem test_decMode : portsAfter (exec (.decMode [0xAA, 0xC5, 0x02, 0x01, 0x01, 0x00, 0x60, 0xA1, 0x05, 0xAB]) State.reset) =
    some { silent 0 0 with modeOut := 1, addrOut := 0x60A1 } := by decide
/-- V72: mode byte 0x81 is not judged by its low bit. -/
theorem test_decMode_bad_mode :
    portsAfter (exec (.decMode [0xAA, 0xC5, 0x02, 0x00, 0x81, 0x00, 0xA1, 0x60, 0x84, 0xAB]) State.reset) =
      some (silent 1 5) := by decide
/-- V29: the expected bytes are free. -/
theorem test_validate_free_bytes : portsAfter (exec (.validate (List.replicate 10 0) 0 0 0) State.reset) =
    some (silent 0 0) := by decide
/-- V32: eleven bytes. -/
theorem test_validate_eleven_bytes :
    portsAfter (exec (.validate (readingV40 ++ [0x00]) 0xAA 0xC0 0xAB) State.reset) = some (silent 1 6) := by decide
/-- V5: six bytes 0xFF sum to 1530. -/
theorem test_chk_wraps : portsAfter (exec (.chk [0xFF, 0xFF, 0xFF, 0xFF, 0xFF, 0xFF, 0xFF, 0xFF, 0xFA, 0xFF]) State.reset) =
    some { silent 0 0 with sum := 0xFA, matched := 1 } := by decide
/-- V2: a wrong checksum byte is reported, not judged. -/
theorem test_chk_no_match : portsAfter (exec (.chk [0xAA, 0xC0, 0x12, 0x34, 0x56, 0x78, 0xBE, 0xEF, 0xC0, 0xAB]) State.reset) =
    some { silent 0 0 with sum := 0xC1, matched := 0 } := by decide
/-- V95, V96. -/
theorem test_reservedOp6 : refusalIn (step (State.reset.withFetchWord 8 6)) = some .reservedOp6 := by decide
theorem test_reservedOp7 : refusalIn (step (State.reset.withFetchWord 8 7)) = some .reservedOp7 := by decide
/-- V97. -/
theorem test_step_rxLen_above_cap :
    refusalIn (step (presenting (.request ⟨0b010, 0, 0, 0, Config.rxCap + 1, [], 0, 0, 0⟩))) = some .rxLenAboveCap := by
  rw [Laws.step_rejected (d := .rxLenAboveCap) rfl test_decode_rxLen_above_cap]
  rfl
/-- V102. -/
theorem test_cmdModeGet : portsAfter (exec (.cmdModeGet 0xA160 0x03) State.reset) =
    okFrame ⟨0xAA, 0xB4, 0x02, 0, 0, 0, 0xA1, 0x60, 0x03, 0xAB⟩ := by decide
/-- V112. -/
theorem test_cmdModeSet : portsAfter (exec (.cmdModeSet .active 0xFDFF 0xFF) State.reset) =
    okFrame ⟨0xAA, 0xB4, 0x02, 0x01, 0, 0, 0xFD, 0xFF, 0xFF, 0xAB⟩ := by decide
/-- V134. -/
theorem test_cmdQuery : portsAfter (exec (.cmdQuery 0x0001 0x05) State.reset) =
    okFrame ⟨0xAA, 0xB4, 0x04, 0, 0, 0, 0x00, 0x01, 0x05, 0xAB⟩ := by decide
/-- V48, and V50 with its wrong checksum. -/
theorem test_rspReading : portsAfter (exec (.rspReading 13330 30806 0xBEEF 0xC1) State.reset) =
    some { silent 0 0 with pm25Raw := 13330, pm10Raw := 30806, addrOut := 0xBEEF } := by decide
theorem test_rspReading_bad_checksum : portsAfter (exec (.rspReading 13330 30806 0xBEEF 0xC0) State.reset) =
    some (silent 1 4) := by decide
/-- V68: offsets 2, 3 and 5 are not checked. -/
theorem test_rspMode : portsAfter (exec (.rspMode 0xFF 0xFF .active 0xFF 0x0000 0xFD) State.reset) =
    some { silent 0 0 with modeOut := 0, addrOut := 0 } := by decide
/-- 42_frame_decoder.md R140: `dec10(1236) = (123, 6)`. -/
theorem test_dec10 : dec10 1236 = (123, 6) ∧ dec10 0xFFFF = (6553, 5) := by decide

/-! ### Witnesses: a concrete state and operands that meet the hypotheses of each statement -/

theorem witness_RequestPortsSelectTheOperation : ∀ n < 8, ∃ r : RequestPorts,
    r.op.toNat = n ∧ r.addrEn.toNat = 1 ∧ r.mode.toNat = 3 ∧ 10 = r.rxLen ∧ r.rxLen ≤ Config.rxCap ∧
      r.rxLen ≤ r.rx.length := by
  intro n hn
  refine ⟨⟨BitVec.ofNat 3 n, 0b11, 0b1, 0xA160, 10, readingV40, 0xAA, 0xC0, 0xAB⟩, ?_, rfl, rfl, rfl, ten_le_rxCap, (by decide : 10 ≤ readingV40.length)⟩
  simpa using hn
theorem witness_DecodeReadsBackEveryEncoding :
    (Instr.encMode .invalid none).wellFormed = true ∧ (Instr.encQuery (some 0)).wellFormed = true ∧
    (Instr.decReading readingV40).wellFormed = true ∧ (Instr.decMode []).wellFormed = true ∧
    (Instr.validate modeV64 1 2 3).wellFormed = true ∧ (Instr.chk [0xAA]).wellFormed = true ∧
    Instr.reservedOp6.wellFormed = true ∧ Instr.reservedOp7.wellFormed = true ∧
    (Instr.cmdModeGet 0xA160 0x03).wellFormed = true ∧ (Instr.cmdModeSet .query 0xA160 0x05).wellFormed = true ∧
    (Instr.cmdQuery 0xFFFF 0x02).wellFormed = true ∧ (Instr.rspReading 1236 2618 0xA160 0x1D).wellFormed = true ∧
    (Instr.rspMode 2 1 .query 0 0xA160 0x05).wellFormed = true := by
  decide
theorem witness_DecodedFrameEncodesToItsBytes :
    decode (.frame readingV40) = .ok (.rspReading 1236 2618 0xA160 0x1D) := rfl

/-- The request of V114. -/
def requestV114 : RequestPorts := ⟨0b000, 0b11, 0b1, 0xA160, 0, [], 0, 0, 0⟩

theorem witness_ModeBitsAreTheFlagBytes :
    (presenting (.request requestV114)).inputs = .present (.request requestV114) :: [] ∧ requestV114.op = 0 ∧
      requestV114.rxLen ≤ Config.rxCap ∧ requestV114.mode.toNat ≠ 1 := by
  decide
theorem witness_NoAddressIsBroadcast :
    requestV114.op.toNat ≤ 1 ∧ (opRequest 1).op.toNat ≤ 1 ∧ requestV114.rxLen ≤ Config.rxCap ∧
      (opRequest 1).rxLen ≤ Config.rxCap := by
  decide
theorem witness_StepRunsTheDecodedInstruction :
    (presenting (.request requestV114)).inputs = .present (.request requestV114) :: [] ∧
      decode (.request requestV114) = .ok (.encMode .query (some 0xA160)) :=
  ⟨rfl, rfl⟩
theorem witness_NothingHappensWithoutAnInput : State.reset.inputs = [] := rfl
theorem witness_ResetDropsAndReadies :
    ∃ s : State, s.inputs = .reset (some requestV114) :: .present (.request requestV114) :: [] ∧
      requestV114.op.toNat < 6 ∧ requestV114.rxLen ≤ Config.rxCap :=
  ⟨{ State.reset with inputs := [.reset (some requestV114), .present (.request requestV114)] }, rfl, by decide, by decide⟩
/-- Each reserved case at its boundary, and a legal request with `rx_len = RX_CAP`. -/
theorem witness_ExactlyReservedRequestsAreRefused :
    (opRequest 6).op.toNat = 6 ∧ (opRequest 7).op.toNat = 7 ∧
    Config.rxCap < ({ opRequest 5 with rxLen := Config.rxCap + 1 } : RequestPorts).rxLen ∧
    ¬((5 : BitVec 3).toNat = 6 ∨ (5 : BitVec 3).toNat = 7 ∨
      Config.rxCap < ({ opRequest 5 with rxLen := Config.rxCap } : RequestPorts).rxLen) := by
  refine ⟨rfl, rfl, Nat.lt_succ_self _, ?_⟩
  simp
/-- Two requests that differ in every port `ENC_QUERY` does not read. -/
theorem witness_UnreadPortsAreIgnored :
    SameReadPorts ⟨1, 0, 0, 5, 0, [], 0, 0, 0⟩ ⟨1, 1, 0, 6, 10, readingV40, 1, 2, 3⟩ ∧ 10 ≤ Config.rxCap := by
  refine ⟨⟨rfl, by decide, by decide, by decide, by decide⟩, ten_le_rxCap⟩
/-- A history with a corrupt frame, an invalid argument and a reset, then a wire frame. -/
theorem witness_ResponseIsAFunctionOfItsRequest :
    (∀ x ∈ [HostInput.present (.request (opRequest 2)), .present (.request ⟨0, 1, 0, 0, 0, [], 0, 0, 0⟩), .reset none],
      x.Legal) ∧ (Encoded.frame readingV40).Legal := by
  refine ⟨?_, _, witness_DecodedFrameEncodesToItsBytes⟩
  intro x hx
  simp only [List.mem_cons, List.not_mem_nil, or_false] at hx
  rcases hx with rfl | rfl | rfl
  · exact ⟨by decide, by decide⟩
  · exact ⟨by decide, by decide⟩
  · trivial
theorem witness_LegalRunCompletes :
    ({ State.reset with inputs := [.reset none, .present (.frame readingV40)] } : State).HostObeys := by
  intro x hx
  simp only [List.mem_cons, List.not_mem_nil, or_false] at hx
  rcases hx with rfl | rfl
  · trivial
  · exact ⟨_, witness_DecodedFrameEncodesToItsBytes⟩
theorem witness_ExecutionChangesOnlyTheResponse :
    exec (.encQuery none) State.reset = .next (respond (encQueryResponse none) State.reset) := rfl
/-- The invariant holds of a state with a response given, and a step leads on from it. -/
theorem witness_StepKeepsTheResponsePortsLawful :
    ∃ s t : State, s.responded = true ∧ s.Inv ∧ step s = .next t :=
  ⟨⟨[.present (.request requestV114)], silent 1 4, true, 0⟩, _, rfl, by decide, rfl⟩
theorem witness_UnproducedPortsReadZero_error :
    ∃ t : State, exec (.decReading []) State.reset = .next t ∧ t.rsp.status ≠ 0 :=
  ⟨_, rfl, by decide⟩
theorem witness_UnproducedPortsReadZero_success :
    ∃ t : State, exec (.decMode modeV64) State.reset = .next t ∧ t.rsp.status = 0 ∧ t.rsp.modeOut = 1 :=
  ⟨_, rfl, by decide⟩
theorem witness_PortEncodingIsOneToOne :
    dataKind (.sum 5 true) = dataKind (.sum 5 true) ∧ portsOf (.sum 5 true) = portsOf (.sum 5 true) ∧
      dataKind (.corrupt .badMode) = none ∧ dataKind .valid ≠ none := by
  decide
theorem witness_ErrorKindsByOperation :
    (∃ t : State, exec (.encMode .invalid none) State.reset = .next t ∧ t.rsp.status = 2) ∧
    ∃ t : State, exec (.encQuery none) State.reset = .next t :=
  ⟨⟨_, rfl, by decide⟩, _, rfl⟩
theorem witness_ChecksumIsAnAccumulatorInAnyOrder :
    ([0x60, 0xA1, 0x00, 0x01, 0x01, 0x02] : List Byte).Perm [0x02, 0x01, 0x01, 0x00, 0xA1, 0x60] := by decide
/-- V40 is accepted; V82 changes its byte at offset 2, V88 at offset 8, V80 and V89 at 0 and 9; V49 swaps 2 and 3. -/
theorem witness_ChecksumCatchesOneChangedByte :
    readingV40.length = 10 ∧
    exec (.validate readingV40 0xAA 0xC0 0xAB) State.reset = .next (answered State.reset (silent 0 0)) ∧
    (0xD5 : Byte) ≠ byteAt readingV40 2 ∧ (0x1C : Byte) ≠ byteAt readingV40 8 :=
  ⟨rfl, rfl, by decide, by decide⟩
theorem witness_EncodedFramesValidate :
    ∃ t : State, exec (.encMode .query (some 0xA160)) State.reset = .next t ∧ t.rsp.status = 0 :=
  ⟨_, rfl, by decide⟩
theorem witness_EncodingLosesNothing : ModeOperand.absent ≠ .invalid ∧ ModeOperand.query ≠ .invalid ∧
    (∃ t : State, exec (.encMode .absent none) State.reset = .next t) ∧
    (∃ t : State, exec (.encMode .query (some 0xFFFF)) State.reset = .next t) ∧
    (∃ t : State, exec (.encQuery none) State.reset = .next t) ∧
    ∃ t : State, exec (.encQuery (some 0xFFFF)) State.reset = .next t :=
  ⟨by decide, by decide, ⟨_, rfl⟩, ⟨_, rfl⟩, ⟨_, rfl⟩, ⟨_, rfl⟩⟩
theorem witness_EncoderProducesOnlyCommandFrames :
    ∃ t : State, exec (.encQuery none) State.reset = .next t ∧ t.rsp.status = 0 :=
  ⟨_, rfl, by decide⟩
/-- V20 is accepted and V27 is not; V70 passes the validation and fails the mode check. -/
theorem witness_DecodersBeginWithTheSharedValidation :
    (∃ t : State, exec (.validate readingV40 0xAA 0xC0 0xAB) State.reset = .next t ∧ t.rsp.status = 0) ∧
    (∃ t : State, exec (.validate modeV64 0xAA 0xC0 0xAB) State.reset = .next t ∧ t.rsp.status ≠ 0) ∧
    (∃ t : State, exec (.validate [0xAA, 0xC5, 0x02, 0x00, 0x02, 0x00, 0xA1, 0x60, 0x05, 0xAB] 0xAA 0xC5 0xAB)
      State.reset = .next t ∧ t.rsp.status = 0) ∧
    ∃ t : State, exec (.validate readingV40 0xAA 0xC5 0xAB) State.reset = .next t ∧ t.rsp.status ≠ 0 :=
  ⟨⟨_, rfl, by decide⟩, ⟨_, rfl, by decide⟩, ⟨_, rfl, by decide⟩, ⟨_, rfl, by decide⟩⟩
theorem witness_DecodingRecoversWhatWasFramed : (0x01 : Byte) = 0x00 ∨ (0x01 : Byte) = 0x01 := by decide
theorem witness_WrongFrameTypeIsBadCommand :
    ((0xC5 : Byte) = 0xB4 ∨ (0xC5 : Byte) = 0xC5) ∧ ((0xC0 : Byte) = 0xB4 ∨ (0xC0 : Byte) = 0xC0) := by decide
/-- Lengths 0, 9 and 11. -/
theorem witness_WrongLengthIsBadLength :
    ([] : List Byte).length ≠ 10 ∧ (readingV40.take 9).length ≠ 10 ∧ (readingV40 ++ [0xAB]).length ≠ 10 := by decide
theorem witness_CommandFrameRowsAreBuilt :
    (Instr.cmdModeGet 0xA160 0x03).wellFormed = true ∧ (Instr.cmdModeSet .active 0xA160 0x04).wellFormed = true ∧
    (Instr.cmdModeSet .query 0xFEFE 0x00).wellFormed = true ∧ (Instr.cmdQuery 0xFEFE 0x00).wellFormed = true := by
  decide
theorem witness_ResponseFrameRowsAreDecoded :
    (Instr.rspReading 65535 65535 0xFFFF 0xFA).wellFormed = true ∧
    (Instr.rspMode 0xFF 0xFF .active 0xFF 0x0000 0xFD).wellFormed = true ∧
    (Instr.rspMode 2 1 .query 0 0xA160 0x05).wellFormed = true := by
  decide
/-- V50. -/
theorem witness_FrameWithWrongChecksumIsCorrupt :
    decode (.frame [0xAA, 0xC0, 0x12, 0x34, 0x56, 0x78, 0xBE, 0xEF, 0xC0, 0xAB]) =
      .ok (.rspReading 0x3412 0x7856 0xBEEF 0xC0) ∧
    payloadSum [0xAA, 0xC0, 0x12, 0x34, 0x56, 0x78, 0xBE, 0xEF, 0xC0, 0xAB] % 256 ≠
      (byteAt [0xAA, 0xC0, 0x12, 0x34, 0x56, 0x78, 0xBE, 0xEF, 0xC0, 0xAB] 8).toNat :=
  ⟨rfl, by decide⟩

end Sys2Proof.Tests
end

section
/-! PROOFS. The family 10_state.md. A response is a function of its instruction, so neither the state nor an
unread port reaches it; and the port encoding can be read back, so that what a port holds follows from the kind
of the response. -/

namespace Sys2Proof.StateProofs

open Machine Spec Laws

/-! ### What a transaction leaves behind -/

/-- Giving a response, in the words of the statements. -/
theorem respond_eq_answered (r : Response) (s : State) : respond r s = answered s (portsOf r) := rfl

/-- A step on an input whose instruction has a response gives that response. -/
theorem step_of_reply {s : State} {e : Encoded} {rest : List HostInput} {i : Instr} {r : Response}
    (h : s.inputs = .present e :: rest) (hd : decode e = .ok i) (hr : replyOf i = some r) :
    step s = .next (respond r (s.afterTaking rest)) :=
  (step_present h hd).trans (exec_of_reply hr _)

/-- Settles O8: the state that has taken the input off the list differs from the old one in `inputs` alone. -/
theorem stepRunsTheDecodedInstruction : Obligations.StepRunsTheDecodedInstruction :=
  fun _ _ _ _ h hd => step_present h hd

/-- Settles O18: at reset no response has been given. -/
theorem resetResponsePortsMakeNoClaim : Obligations.ResetResponsePortsMakeNoClaim := by
  intro h
  rw [reset_responded] at h
  cases h

/-- Settles O16: what `exec` gives is the instruction's reply, which no state enters. -/
theorem executionChangesOnlyTheResponse : Obligations.ExecutionChangesOnlyTheResponse := by
  intro i s t h
  obtain ⟨r, hr, rfl⟩ := exec_next h
  exact ⟨respond_eq_answered r s, fun s' => exec_of_reply hr s'⟩

/-- Settles O14: the history runs through and leaves the request at the head of the inputs; the response is then
the reply of the decoded instruction, as it is after reset. -/
theorem responseIsAFunctionOfItsRequest : Obligations.ResponseIsAFunctionOfItsRequest := by
  intro s history e hhist he
  obtain ⟨i, r, hd, hr⟩ := legal_reply he
  obtain ⟨m, hm, hrest⟩ :=
    run_legal history { s with inputs := history ++ [.present e] } [.present e] rfl hhist
  have hlast := (run_then_step hm).trans (step_of_reply hrest hd hr)
  have hfirst := (run_one { State.reset with inputs := [.present e] }).trans (step_of_reply rfl hd hr)
  exact ⟨_, _, hlast, hfirst, rfl, rfl, rfl, rfl⟩

/-! ### The ports an operation reads (10_state.md R26) -/

/-- The address lines matter only when `addr_en` is 1. -/
theorem addressOf_congr {r r' : RequestPorts} (hen : r.addrEn = r'.addrEn)
    (haddr : r.addrEn = 1 → r.addr = r'.addr) : addressOf r = addressOf r' := by
  unfold addressOf
  rw [← hen]
  split
  · rw [haddr ‹_›]
  · rfl

/-- Requests that agree on the ports their operation reads stand for one instruction. -/
theorem requestInstr_congr {r r' : RequestPorts} (h : SameReadPorts r r') : requestInstr r = requestInstr r' := by
  obtain ⟨hop, hmode, haddr, hrx, hexp⟩ := h
  have haddress (h1 : r.op.toNat ≤ 1) : addressOf r = addressOf r' := addressOf_congr (haddr h1).1 (haddr h1).2
  have hreceived (h2 : 2 ≤ r.op.toNat) : received r = received r' := received_congr (hrx h2).1 (hrx h2).2
  unfold requestInstr
  rw [← hop]
  split_ifs with h0 h1 h2 h3 h4 h5
  · rw [hmode (by simp [h0]), haddress (by simp [h0])]
  · rw [haddress (by simp [h1])]
  · rw [hreceived (by simp [h2])]
  · rw [hreceived (by simp [h3])]
  · obtain ⟨hh, hc, ht⟩ := hexp (by simp [h4])
    rw [hreceived (by simp [h4]), hh, hc, ht]
  · rw [hreceived (by simp [h5])]
  · rfl
  · rfl

/-- Settles O13: both requests decode to the same instruction. -/
theorem unreadPortsAreIgnored : Obligations.UnreadPortsAreIgnored := by
  intro s r r' rest hop hlen hlen' hsame
  obtain ⟨x, hx⟩ := requestInstr_reply hop
  have hd : decode (.request r) = .ok (requestInstr r) := decode_request_legal hlen
  have hd' : decode (.request r') = .ok (requestInstr r) :=
    requestInstr_congr hsame ▸ decode_request_legal hlen'
  exact ⟨_, step_of_reply rfl hd hx, step_of_reply rfl hd' hx, rfl⟩

/-! ### The port encoding is read back (10_state.md R27) -/

/-- The reason a code of the `reason` port stands for; the codes of no reason are read as `BAD_LENGTH`. -/
def reasonOf (code : BitVec 3) : Reason :=
  if code = 1 then .badHeader
  else if code = 2 then .badCommand
  else if code = 3 then .badTail
  else if code = 4 then .badChecksum
  else if code = 5 then .badMode
  else .badLength

/-- The response of the given kind that the ports hold, read from the ports meaningful for that kind. -/
def responseOf (kind : Option Nat) (p : ResponsePorts) : Response :=
  match kind with
  | some 0 => .frame p.tx
  | some 1 => .reading p.pm25Raw p.pm10Raw p.addrOut
  | some 2 => .mode (if p.modeOut = 0 then .active else .query) p.addrOut
  | some 3 => .valid
  | some 4 => .sum p.sum (p.matched == 1)
  | _ => if p.status = 1 then .corrupt (reasonOf p.reason) else .invalidArg

theorem reasonOf_reasonCode (r : Reason) : reasonOf (reasonCode r) = r := by
  cases r <;> rfl

/-- The left inverse of the port encoding. -/
theorem responseOf_portsOf (r : Response) : responseOf (dataKind r) (portsOf r) = r := by
  cases r with
  | mode m a => cases m <;> rfl
  | sum c ok => cases ok <;> rfl
  | corrupt r => exact congrArg Response.corrupt (reasonOf_reasonCode r)
  | _ => rfl

/-- `status` is OK exactly when the response is no error. -/
theorem portsOf_status_eq_zero_iff (r : Response) : (portsOf r).status = 0 ↔ dataKind r ≠ none := by
  cases r <;> simp [portsOf, okNoData, dataKind]

/-- Settles O20: the response is read back from its ports and its kind, and `status` tells errors apart. -/
theorem portEncodingIsOneToOne : Obligations.PortEncodingIsOneToOne := by
  refine ⟨fun r r' hports hkind => ?_, fun r r' herr hok hstatus => ?_⟩
  · calc r = responseOf (dataKind r) (portsOf r) := (responseOf_portsOf r).symm
      _ = responseOf (dataKind r') (portsOf r') := by rw [hkind, hports]
      _ = r' := responseOf_portsOf r'
  · have hzero : (portsOf r').status = 0 := (portsOf_status_eq_zero_iff r').2 hok
    exact (portsOf_status_eq_zero_iff r).1 (hstatus.trans hzero) herr

/-! ### The ports an operation does not produce (10_state.md R25) -/

theorem portsOf_of_error {r : Response} (h : dataKind r = none) :
    portsOf r = silent (portsOf r).status (portsOf r).reason := by
  cases r with
  | corrupt _ => rfl
  | invalidArg => rfl
  | _ => cases h

/-- Only a frame response drives `tx`. -/
theorem portsOf_tx_eq_zero {r : Response} (h : dataKind r ≠ some 0) : (portsOf r).tx = (silent 0 0).tx := by
  cases r with
  | frame _ => exact absurd rfl h
  | _ => rfl

/-- Only a reading drives the counts. -/
theorem portsOf_counts_eq_zero {r : Response} (h : dataKind r ≠ some 1) :
    (portsOf r).pm25Raw = 0 ∧ (portsOf r).pm10Raw = 0 := by
  cases r with
  | reading _ _ _ => exact absurd rfl h
  | _ => exact ⟨rfl, rfl⟩

/-- Only a mode report drives `mode_out`. -/
theorem portsOf_modeOut_eq_zero {r : Response} (h : dataKind r ≠ some 2) : (portsOf r).modeOut = 0 := by
  cases r with
  | mode _ _ => exact absurd rfl h
  | _ => rfl

/-- Only a reading and a mode report drive `addr_out`. -/
theorem portsOf_addrOut_eq_zero {r : Response} (h1 : dataKind r ≠ some 1) (h2 : dataKind r ≠ some 2) :
    (portsOf r).addrOut = 0 := by
  cases r with
  | reading _ _ _ => exact absurd rfl h1
  | mode _ _ => exact absurd rfl h2
  | _ => rfl

/-- Only a sum drives `sum` and `match`. -/
theorem portsOf_sum_eq_zero {r : Response} (h : dataKind r ≠ some 4) :
    (portsOf r).sum = 0 ∧ (portsOf r).matched = 0 := by
  cases r with
  | sum _ _ => exact absurd rfl h
  | _ => exact ⟨rfl, rfl⟩

/-- The kind of data an instruction's successful response carries (`dataKind`); none for the reserved codes. -/
def producedKind : Instr → Option Nat
  | .encMode _ _ | .encQuery _ | .cmdModeGet _ _ | .cmdModeSet _ _ _ | .cmdQuery _ _ => some 0
  | .decReading _ | .rspReading _ _ _ _ => some 1
  | .decMode _ | .rspMode _ _ _ _ _ _ => some 2
  | .validate _ _ _ _ => some 3
  | .chk _ => some 4
  | .reservedOp6 | .reservedOp7 => none

/-- A response is an error or of the kind `k`. -/
def ErrorOr (k : Nat) (r : Response) : Prop := dataKind r = none ∨ dataKind r = some k

theorem encModeResponse_errorOr (mode : ModeOperand) (a : Option Addr) : ErrorOr 0 (encModeResponse mode a) := by
  rcases encModeResponse_cases mode a with ⟨-, h⟩ | ⟨-, h⟩ <;> rw [h]
  · exact .inl rfl
  · exact .inr rfl

theorem commandResponse_errorOr {k : Nat} (f : Frame) {built : Response} (h : ErrorOr k built) :
    ErrorOr k (commandResponse f built) := by
  rcases orRaise_cases (checkFrame f headerByte cmdHost tailByte) fun _ => built with ⟨_, -, e⟩ | ⟨_, -, e⟩ <;>
    rw [commandResponse, e]
  · exact .inl rfl
  · exact h

theorem decReadingResponse_errorOr (rx : List Byte) : ErrorOr 1 (decReadingResponse rx) := by
  rcases decReadingResponse_cases rx with ⟨_, -, h⟩ | ⟨_, _, _, h⟩ <;> rw [h]
  · exact .inl rfl
  · exact .inr rfl

theorem decModeResponse_errorOr (rx : List Byte) : ErrorOr 2 (decModeResponse rx) := by
  rcases decModeResponse_cases rx with ⟨_, h⟩ | ⟨_, _, h⟩ <;> rw [h]
  · exact .inl rfl
  · exact .inr rfl

theorem validateResponse_errorOr (rx : List Byte) (eh ec et : Byte) : ErrorOr 3 (validateResponse rx eh ec et) := by
  rcases validateResponse_cases rx eh ec et with ⟨_, -, h⟩ | h <;> rw [h]
  · exact .inl rfl
  · exact .inr rfl

theorem chkResponse_errorOr (rx : List Byte) : ErrorOr 4 (chkResponse rx) := by
  rcases chkResponse_cases rx with ⟨-, h⟩ | ⟨_, -, h⟩ <;> rw [h]
  · exact .inl rfl
  · exact .inr rfl

/-- Every reply is an error or of the kind its instruction produces. -/
theorem reply_dataKind {i : Instr} {r : Response} (h : replyOf i = some r) :
    dataKind r = none ∨ dataKind r = producedKind i := by
  cases i <;> cases h
  case encMode mode a => exact encModeResponse_errorOr mode a
  case encQuery => exact .inr rfl
  case decReading rx => exact decReadingResponse_errorOr rx
  case decMode rx => exact decModeResponse_errorOr rx
  case validate rx eh ec et => exact validateResponse_errorOr rx eh ec et
  case chk rx => exact chkResponse_errorOr rx
  case cmdModeGet => exact commandResponse_errorOr _ (encModeResponse_errorOr _ _)
  case cmdModeSet => exact commandResponse_errorOr _ (encModeResponse_errorOr _ _)
  case cmdQuery => exact commandResponse_errorOr _ (.inr rfl)
  case rspReading => exact decReadingResponse_errorOr _
  case rspMode => exact decModeResponse_errorOr _

/-- An instruction that does not produce the kind `k` never answers with it. -/
theorem reply_dataKind_ne {i : Instr} {r : Response} {k : Nat} (hr : replyOf i = some r)
    (hk : producedKind i ≠ some k) : dataKind r ≠ some k := by
  rcases reply_dataKind hr with h | h <;> rw [h]
  · exact nofun
  · exact hk

theorem producedKind_ne_frame {i : Instr} (hmode : ∀ mode a, i ≠ .encMode mode a) (hquery : ∀ a, i ≠ .encQuery a)
    (hget : ∀ a c, i ≠ .cmdModeGet a c) (hset : ∀ m a c, i ≠ .cmdModeSet m a c) (hcmd : ∀ a c, i ≠ .cmdQuery a c) :
    producedKind i ≠ some 0 := by
  intro hk
  cases i with
  | encMode mode a => exact hmode mode a rfl
  | encQuery a => exact hquery a rfl
  | cmdModeGet a c => exact hget a c rfl
  | cmdModeSet m a c => exact hset m a c rfl
  | cmdQuery a c => exact hcmd a c rfl
  | _ => cases hk

theorem producedKind_ne_reading {i : Instr} (hdec : ∀ rx, i ≠ .decReading rx)
    (hrsp : ∀ p q a c, i ≠ .rspReading p q a c) : producedKind i ≠ some 1 := by
  intro hk
  cases i with
  | decReading rx => exact hdec rx rfl
  | rspReading p q a c => exact hrsp p q a c rfl
  | _ => cases hk

theorem producedKind_ne_mode {i : Instr} (hdec : ∀ rx, i ≠ .decMode rx)
    (hrsp : ∀ x2 x3 m x5 a c, i ≠ .rspMode x2 x3 m x5 a c) : producedKind i ≠ some 2 := by
  intro hk
  cases i with
  | decMode rx => exact hdec rx rfl
  | rspMode x2 x3 m x5 a c => exact hrsp x2 x3 m x5 a c rfl
  | _ => cases hk

theorem producedKind_ne_sum {i : Instr} (hchk : ∀ rx, i ≠ .chk rx) : producedKind i ≠ some 4 := by
  intro hk
  cases i with
  | chk rx => exact hchk rx rfl
  | _ => cases hk

/-- Settles O19: the reply is an error, without data, or of the one kind its instruction produces, and each data
port is driven by its own kind of response alone. -/
theorem unproducedPortsReadZero : Obligations.UnproducedPortsReadZero := by
  intro i s t h
  obtain ⟨r, hr, rfl⟩ := exec_next h
  rw [respond_rsp]
  refine ⟨fun herr => ?_, ?_, ?_, ?_, ?_, fun hchk => ?_⟩
  · exact portsOf_of_error (not_not.1 (mt (portsOf_status_eq_zero_iff r).2 herr))
  · rintro ⟨hmode, hquery, hget, hset, hcmd⟩
    exact portsOf_tx_eq_zero (reply_dataKind_ne hr (producedKind_ne_frame hmode hquery hget hset hcmd))
  · rintro ⟨hdec, hrsp⟩
    exact portsOf_counts_eq_zero (reply_dataKind_ne hr (producedKind_ne_reading hdec hrsp))
  · rintro ⟨hdec, hrsp⟩
    exact portsOf_modeOut_eq_zero (reply_dataKind_ne hr (producedKind_ne_mode hdec hrsp))
  · rintro ⟨hread, hrspRead, hmode, hrspMode⟩
    exact portsOf_addrOut_eq_zero (reply_dataKind_ne hr (producedKind_ne_reading hread hrspRead))
      (reply_dataKind_ne hr (producedKind_ne_mode hmode hrspMode))
  · exact portsOf_sum_eq_zero (reply_dataKind_ne hr (producedKind_ne_sum hchk))

end Sys2Proof.StateProofs
end

section
/-! PROOFS. The family 30_encoding.md. A request is decoded by its `op`, a wire frame is exactly the encoding of
the row it decodes to, and a frame that carries its own checksum is the sealed frame the statements write out in
integers. -/

namespace Sys2Proof.EncodingProofs

open Machine Spec Laws StateProofs

/-! ### The operand ports of a request (30_encoding.md R84 to R86) -/

theorem eq_ofNat_of_toNat {w n : Nat} {x : BitVec w} (h : x.toNat = n) : x = BitVec.ofNat w n := by
  simp [← h]

theorem modeCode_modeOperandOf (code : BitVec 2) : modeCode (modeOperandOf code) = code := by
  decide +revert

/-- The four codes and the four mode operands are in bijection, by the value of the code. -/
theorem toNat_eq_modeCode_iff (code : BitVec 2) (m : ModeOperand) :
    code.toNat = (modeCode m).toNat ↔ modeOperandOf code = m := by
  rw [BitVec.toNat_inj]
  constructor
  · rintro rfl
    exact modeOperandOf_modeCode m
  · rintro rfl
    exact (modeCode_modeOperandOf code).symm

theorem addressOf_disabled {r : RequestPorts} (h : r.addrEn = 0) : addressOf r = none := by
  simp [addressOf, h]

theorem addressOf_enabled {r : RequestPorts} (h : r.addrEn = 1) : addressOf r = some r.addr := by
  simp [addressOf, h]

/-- When every line below `rx_len` is listed, the received sequence is read off the list. -/
theorem received_eq_take {r : RequestPorts} (h : r.rxLen ≤ r.rx.length) : received r = r.rx.take r.rxLen :=
  List.take_append_of_le_length h

/-! ### The operation each code selects (30_encoding.md R84, R88) -/

section
variable {r : RequestPorts}

theorem requestInstr_encMode (h : r.op = 0) : requestInstr r = .encMode (modeOperandOf r.mode) (addressOf r) := by
  simp [requestInstr, h]

theorem requestInstr_encQuery (h : r.op = 1) : requestInstr r = .encQuery (addressOf r) := by
  simp [requestInstr, h]

theorem requestInstr_decReading (h : r.op = 2) : requestInstr r = .decReading (received r) := by
  simp [requestInstr, h]

theorem requestInstr_decMode (h : r.op = 3) : requestInstr r = .decMode (received r) := by
  simp [requestInstr, h]

theorem requestInstr_validate (h : r.op = 4) :
    requestInstr r = .validate (received r) r.expHdr r.expCmd r.expTail := by
  simp [requestInstr, h]

theorem requestInstr_chk (h : r.op = 5) : requestInstr r = .chk (received r) := by
  simp [requestInstr, h]

theorem requestInstr_reservedOp6 (h : r.op = 6) : requestInstr r = .reservedOp6 := by
  simp [requestInstr, h]

theorem requestInstr_reservedOp7 (h : r.op = 7) : requestInstr r = .reservedOp7 := by
  simp [requestInstr, h]

end

/-! ### Reading back (30_encoding.md R72 to R78, R84 to R86) -/

theorem length_le_of_fitsRx {rx : List Byte} (h : fitsRx rx = true) : rx.length ≤ Config.rxCap :=
  of_decide_eq_true h

/-- An encode request leaves `rx_len` at zero, which every `RX_CAP` admits. -/
theorem rxLen_driveAddress_le (r : RequestPorts) (hr : r.rxLen = 0) (a : Option Addr) :
    (driveAddress r a).rxLen ≤ Config.rxCap := by
  simp [hr]

/-- Settles O3: a request row is read back port by port, a frame row by its pattern. -/
theorem decodeReadsBackEveryEncoding : Obligations.DecodeReadsBackEveryEncoding := by
  intro i hwf
  cases i with
  | encMode mode address =>
    rw [encode, decode_request_legal (rxLen_driveAddress_le _ rfl address), requestInstr_encMode (driveAddress_op _ _)]
    simp
  | encQuery address =>
    rw [encode, decode_request_legal (rxLen_driveAddress_le _ rfl address), requestInstr_encQuery (driveAddress_op _ _)]
    simp
  | decReading rx =>
    rw [encode, decode_request_legal (length_le_of_fitsRx hwf), requestInstr_decReading rfl, received_driveRx]
  | decMode rx =>
    rw [encode, decode_request_legal (length_le_of_fitsRx hwf), requestInstr_decMode rfl, received_driveRx]
  | validate rx eh ec et =>
    rw [encode, decode_request_legal (length_le_of_fitsRx hwf), requestInstr_validate rfl, received_driveRx]
    rfl
  | chk rx =>
    rw [encode, decode_request_legal (length_le_of_fitsRx hwf), requestInstr_chk rfl, received_driveRx]
  | reservedOp6 => rfl
  | reservedOp7 => rfl
  | cmdModeGet a c => exact decodeFrame_cmdModeGetFrame a c
  | cmdModeSet m a c => exact decodeFrame_cmdModeSetFrame m a c
  | cmdQuery a c => exact decodeFrame_cmdQueryFrame a c
  | rspReading p q a c => exact decodeFrame_rspReadingFrame p q a c
  | rspMode x2 x3 m x5 a c => exact decodeFrame_rspModeFrame x2 x3 m x5 a c

/-- Settles O2: the operands are `modeOperandOf` and `addressOf` of the ports, whatever the code. -/
theorem requestPortsSelectTheOperation : Obligations.RequestPortsSelectTheOperation := by
  intro r hcap hlisted
  rw [decode_request_legal hcap, ← received_eq_take hlisted]
  exact ⟨modeOperandOf r.mode, addressOf r, toNat_eq_modeCode_iff _ .absent, toNat_eq_modeCode_iff _ .active,
    toNat_eq_modeCode_iff _ .query, toNat_eq_modeCode_iff _ .invalid,
    fun h => addressOf_disabled (eq_ofNat_of_toNat h), fun h => addressOf_enabled (eq_ofNat_of_toNat h),
    fun h => congrArg _ (requestInstr_encMode (eq_ofNat_of_toNat h)),
    fun h => congrArg _ (requestInstr_encQuery (eq_ofNat_of_toNat h)),
    fun h => congrArg _ (requestInstr_decReading (eq_ofNat_of_toNat h)),
    fun h => congrArg _ (requestInstr_decMode (eq_ofNat_of_toNat h)),
    fun h => congrArg _ (requestInstr_validate (eq_ofNat_of_toNat h)),
    fun h => congrArg _ (requestInstr_chk (eq_ofNat_of_toNat h)),
    fun h => congrArg _ (requestInstr_reservedOp6 (eq_ofNat_of_toNat h)),
    fun h => congrArg _ (requestInstr_reservedOp7 (eq_ofNat_of_toNat h))⟩

/-- A byte sequence that decodes is a frame. -/
theorem decode_frame_ok {bs : List Byte} {i : Instr} (h : decode (.frame bs) = .ok i) :
    ∃ f, bs = frameBytes f ∧ decodeFrame f = .ok i := by
  rcases frameOf_cases bs with ⟨f, rfl, -⟩ | ⟨-, hn⟩
  · exact ⟨f, rfl, h⟩
  · simp [decode, hn] at h

/-- Settles O4: each row's encoding is the frame that the inversion of the decoder names. -/
theorem decodedFrameEncodesToItsBytes : Obligations.DecodedFrameEncodesToItsBytes := by
  intro bs i h
  obtain ⟨f, rfl, hf⟩ := decode_frame_ok h
  rcases decodeFrame_cases hf with ⟨_, _, rfl, rfl⟩ | ⟨_, _, _, rfl, rfl⟩ | ⟨_, _, rfl, rfl⟩ |
    ⟨_, _, _, _, rfl, rfl⟩ | ⟨_, _, _, _, _, _, rfl, rfl⟩ <;> rfl

/-- Settles O1: the decoder evaluates each of the thirteen words. -/
theorem tableWordsDecodeToTheirRows : Obligations.TableWordsDecodeToTheirRows :=
  ⟨rfl, rfl, rfl, rfl, rfl, rfl, rfl, rfl, rfl, rfl, rfl, rfl, rfl⟩

/-! ### Patterns and masks (30_encoding.md R78, 20_memory.md R53) -/

theorem append_inj {v w : Nat} {x x' : BitVec v} {y y' : BitVec w} (h : x ++ y = x' ++ y') : x = x' ∧ y = y' := by
  have hleft := congrArg (BitVec.extractLsb' w v) h
  have hright := congrArg (BitVec.extractLsb' 0 w) h
  simp only [BitVec.extractLsb'_append_eq_left, BitVec.extractLsb'_append_eq_right] at hleft hright
  exact ⟨hleft, hright⟩

theorem word_injective {f g : Frame} (h : word f = word g) : f = g := by
  obtain ⟨h, h9⟩ := append_inj h
  obtain ⟨h, h8⟩ := append_inj h
  obtain ⟨h, h7⟩ := append_inj h
  obtain ⟨h, h6⟩ := append_inj h
  obtain ⟨h, h5⟩ := append_inj h
  obtain ⟨h, h4⟩ := append_inj h
  obtain ⟨h, h3⟩ := append_inj h
  obtain ⟨h, h2⟩ := append_inj h
  obtain ⟨h0, h1⟩ := append_inj h
  cases f
  cases g
  simp_all

/-- The bytes of a frame under the bytes of a mask. -/
def masked (f m : Frame) : Frame :=
  ⟨f.header &&& m.header, f.cmd &&& m.cmd, f.d1 &&& m.d1, f.d2 &&& m.d2, f.d3 &&& m.d3, f.d4 &&& m.d4,
    f.d5 &&& m.d5, f.d6 &&& m.d6, f.chk &&& m.chk, f.tail &&& m.tail⟩

theorem word_masked (f m : Frame) : word (masked f m) = word f &&& word m := by
  simp only [word, masked, ← BitVec.and_append]

/-- A word has the bits `p` under the mask `m` exactly when each of its bytes has. -/
theorem masked_eq_iff (f m p : Frame) : masked f m = p ↔ word f &&& word m = word p := by
  rw [← word_masked]
  exact ⟨congrArg word, word_injective⟩

theorem and_byteMask (b : Byte) : b &&& 0xFF = b := BitVec.and_allOnes

theorem and_zeroMask (b : Byte) : b &&& 0x00 = 0x00 := BitVec.and_zero

theorem modeByte_and_modeMask (m : ReportingMode) : modeByte m &&& 0xFE = 0x00 := by
  cases m <;> rfl

/-- The mask of a mode byte leaves its low bit free, so what passes it is a mode byte. -/
theorem modeByte_of_and_modeMask {b : Byte} (h : b &&& 0xFE = 0x00) : ∃ m, b = modeByte m := by
  have hbit : b = 0x00 ∨ b = 0x01 := by decide +revert
  exact hbit.elim (fun h0 => ⟨.active, h0⟩) fun h1 => ⟨.query, h1⟩

/-- The fixed bytes of `CMD.MODE.GET` and `CMD.QUERY`: all but the address and the checksum. -/
def commandMask : Frame := ⟨0xFF, 0xFF, 0xFF, 0xFF, 0xFF, 0xFF, 0x00, 0x00, 0x00, 0xFF⟩
/-- The fixed bits of `CMD.MODE.SET`. -/
def modeSetMask : Frame := ⟨0xFF, 0xFF, 0xFF, 0xFF, 0xFE, 0xFF, 0x00, 0x00, 0x00, 0xFF⟩
/-- The fixed bytes of `RSP.READING`. -/
def readingMask : Frame := ⟨0xFF, 0xFF, 0x00, 0x00, 0x00, 0x00, 0x00, 0x00, 0x00, 0xFF⟩
/-- The fixed bits of `RSP.MODE`. -/
def modeReportMask : Frame := ⟨0xFF, 0xFF, 0x00, 0x00, 0xFE, 0x00, 0x00, 0x00, 0x00, 0xFF⟩

/-- A frame that decodes to a row is the row's frame. -/
theorem eq_of_decode {f g : Frame} {i : Instr} (h : decode (.frame (bytes f)) = .ok i)
    (hi : encode i = .frame (frameBytes g)) : f = g := by
  have hbytes : frameBytes g = bytes f := Encoded.frame.inj (hi.symm.trans (decodedFrameEncodesToItsBytes _ _ h))
  exact Option.some.inj (congrArg frameOf hbytes.symm)

theorem decodes_cmdModeGet_iff (f : Frame) :
    (∃ a c, decode (.frame (bytes f)) = .ok (.cmdModeGet a c)) ↔ masked f commandMask = cmdModeGetFrame 0 0 := by
  constructor
  · rintro ⟨a, c, h⟩
    rw [eq_of_decode h rfl]
    simp only [masked, commandMask, cmdModeGetFrame, and_byteMask, and_zeroMask]
    rfl
  · intro h
    simp only [masked, commandMask, cmdModeGetFrame, Frame.mk.injEq, and_byteMask] at h
    refine ⟨bigEndian f.d5 f.d6, f.chk, ?_⟩
    change decodeFrame f = _
    simp [decodeFrame, decodeCommand, h]

theorem decodes_cmdModeSet_iff (f : Frame) :
    (∃ m a c, decode (.frame (bytes f)) = .ok (.cmdModeSet m a c)) ↔
      masked f modeSetMask = cmdModeSetFrame .active 0 0 := by
  constructor
  · rintro ⟨m, a, c, h⟩
    rw [eq_of_decode h rfl]
    simp only [masked, modeSetMask, cmdModeSetFrame, and_byteMask, and_zeroMask, modeByte_and_modeMask]
    rfl
  · intro h
    simp only [masked, modeSetMask, cmdModeSetFrame, Frame.mk.injEq, and_byteMask] at h
    obtain ⟨hh, hc, h1, h2, hflag, h4, -, -, -, ht⟩ := h
    obtain ⟨m, hm⟩ := modeByte_of_and_modeMask hflag
    refine ⟨m, bigEndian f.d5 f.d6, f.chk, ?_⟩
    change decodeFrame f = _
    simp [decodeFrame, decodeCommand, hh, hc, h1, h2, hm, h4, ht]

theorem decodes_cmdQuery_iff (f : Frame) :
    (∃ a c, decode (.frame (bytes f)) = .ok (.cmdQuery a c)) ↔ masked f commandMask = cmdQueryFrame 0 0 := by
  constructor
  · rintro ⟨a, c, h⟩
    rw [eq_of_decode h rfl]
    simp only [masked, commandMask, cmdQueryFrame, and_byteMask, and_zeroMask]
    rfl
  · intro h
    simp only [masked, commandMask, cmdQueryFrame, Frame.mk.injEq, and_byteMask] at h
    refine ⟨bigEndian f.d5 f.d6, f.chk, ?_⟩
    change decodeFrame f = _
    simp [decodeFrame, decodeCommand, h, subQuery, subMode]

theorem decodes_rspReading_iff (f : Frame) :
    (∃ p q a c, decode (.frame (bytes f)) = .ok (.rspReading p q a c)) ↔
      masked f readingMask = rspReadingFrame 0 0 0 0 := by
  constructor
  · rintro ⟨p, q, a, c, h⟩
    rw [eq_of_decode h rfl]
    simp only [masked, readingMask, rspReadingFrame, and_byteMask, and_zeroMask]
    rfl
  · intro h
    simp only [masked, readingMask, rspReadingFrame, Frame.mk.injEq, and_byteMask] at h
    refine ⟨littleEndian f.d1 f.d2, littleEndian f.d3 f.d4, bigEndian f.d5 f.d6, f.chk, ?_⟩
    change decodeFrame f = _
    simp [decodeFrame, h, cmdReading, cmdHost]

theorem decodes_rspMode_iff (f : Frame) :
    (∃ x2 x3 m x5 a c, decode (.frame (bytes f)) = .ok (.rspMode x2 x3 m x5 a c)) ↔
      masked f modeReportMask = rspModeFrame 0 0 .active 0 0 0 := by
  constructor
  · rintro ⟨x2, x3, m, x5, a, c, h⟩
    rw [eq_of_decode h rfl]
    simp only [masked, modeReportMask, rspModeFrame, and_byteMask, and_zeroMask, modeByte_and_modeMask]
    rfl
  · intro h
    simp only [masked, modeReportMask, rspModeFrame, Frame.mk.injEq, and_byteMask] at h
    obtain ⟨hh, hc, -, -, hmode, -, -, -, -, ht⟩ := h
    obtain ⟨m, hm⟩ := modeByte_of_and_modeMask hmode
    refine ⟨f.d1, f.d2, m, f.d4, bigEndian f.d5 f.d6, f.chk, ?_⟩
    change decodeFrame f = _
    simp [decodeFrame, hh, hc, ht, hm, cmdModeReport, cmdReading, cmdHost]

/-- Settles O5: each match numeral is the word of the row's frame with every field zero, and a frame decodes to
the row exactly when its bytes under the mask's bytes are that frame. -/
theorem frameFormatsAreTheTablesPatterns : Obligations.FrameFormatsAreTheTablesPatterns := by
  intro f
  exact ⟨(decodes_cmdModeGet_iff f).trans (masked_eq_iff f commandMask (cmdModeGetFrame 0 0)),
    (decodes_cmdModeSet_iff f).trans (masked_eq_iff f modeSetMask (cmdModeSetFrame .active 0 0)),
    (decodes_cmdQuery_iff f).trans (masked_eq_iff f commandMask (cmdQueryFrame 0 0)),
    (decodes_rspReading_iff f).trans (masked_eq_iff f readingMask (rspReadingFrame 0 0 0 0)),
    (decodes_rspMode_iff f).trans (masked_eq_iff f modeReportMask (rspModeFrame 0 0 .active 0 0 0))⟩

/-! ### Requests through a step (30_encoding.md R85, R86, R88) -/

section
variable {s : State} {r : RequestPorts} {rest : List HostInput}

/-- A request whose `op` is no reserved code and whose `rx_len` fits is answered. -/
theorem step_request (hin : s.inputs = .present (.request r) :: rest) (hlen : r.rxLen ≤ Config.rxCap) {x : Response}
    (hx : replyOf (requestInstr r) = some x) : step s = .next (respond x (s.afterTaking rest)) :=
  step_of_reply hin (decode_request_legal hlen) hx

/-- A request with a reserved `op` is refused, whatever its `rx_len`. -/
theorem step_reservedOp (hin : s.inputs = .present (.request r) :: rest) (hop : r.op = 6 ∨ r.op = 7) :
    ∃ q, step s = .refused q := by
  have hd : decode (.request r) = .ok (requestInstr r) := by
    rcases decodeRequest_cases r with ⟨h, -⟩ | ⟨-, h6, h7, -⟩
    · exact h
    · exact absurd hop (not_or.2 ⟨h6, h7⟩)
  rw [step_present hin hd]
  rcases hop with h | h
  · rw [requestInstr_reservedOp6 h]
    exact ⟨_, rfl⟩
  · rw [requestInstr_reservedOp7 h]
    exact ⟨_, rfl⟩

/-- A request whose `rx_len` exceeds `RX_CAP` is refused, whatever its `op`. -/
theorem step_above_rxCap (hin : s.inputs = .present (.request r) :: rest) (hlen : Config.rxCap < r.rxLen) :
    ∃ q, step s = .refused q := by
  rcases decodeRequest_cases r with ⟨-, h6 | h7 | hle⟩ | ⟨hd, -⟩
  · exact step_reservedOp hin (.inl h6)
  · exact step_reservedOp hin (.inr h7)
  · exact absurd hlen (Nat.not_lt.2 hle)
  · exact ⟨_, step_rejected hin hd⟩

end

/-- Settles O12: the meaning of each reserved code is its refusal, by definition. -/
theorem reservedCodesAreRefused : Obligations.ReservedCodesAreRefused :=
  fun _ => ⟨rfl, rfl⟩

/-- Settles O11: the decoder passes a reserved code on to its refusal and rejects an `rx_len` above `RX_CAP`; what
is left is a legal request. -/
theorem exactlyReservedRequestsAreRefused : Obligations.ExactlyReservedRequestsAreRefused := by
  intro s r rest hin
  constructor
  · rintro (h6 | h7 | hlen)
    · exact step_reservedOp hin (.inl (eq_ofNat_of_toNat h6))
    · exact step_reservedOp hin (.inr (eq_ofNat_of_toNat h7))
    · exact step_above_rxCap hin hlen
  · intro h
    obtain ⟨x, hx⟩ := requestInstr_reply (r := r) (by omega)
    exact ⟨_, step_request hin (by omega) hx, rfl, rfl, rfl⟩

/-- The flag bytes of a legal mode code are its two bits. -/
theorem flags_modeOperandOf {code : BitVec 2} (h : code.toNat ≠ 1) :
    (setFlag (modeOperandOf code)).toNat = code.toNat / 2 ∧
      (queryFlag (modeOperandOf code)).toNat = code.toNat % 2 := by
  decide +revert

/-- Settles O6: the request is an `ENC_MODE` with a legal operand, whose frame carries the operand's flag bytes. -/
theorem modeBitsAreTheFlagBytes : Obligations.ModeBitsAreTheFlagBytes := by
  intro s r rest hin hop hlen hmode
  have hlegal : modeOperandOf r.mode ≠ .invalid := fun h => hmode ((toNat_eq_modeCode_iff r.mode .invalid).2 h)
  have hreply : replyOf (requestInstr r) =
      some (.frame (modeCommand (modeOperandOf r.mode) (effectiveAddress (addressOf r)))) := by
    rw [requestInstr_encMode hop, replyOf, encModeResponse, if_neg hlegal]
  obtain ⟨hset, hquery⟩ := flags_modeOperandOf hmode
  exact ⟨_, step_request hin hlen hreply, rfl, hset, hquery⟩

/-- An encode request sees the address ports only through the effective address. -/
theorem encode_reply_congr {r r' : RequestPorts} (hencode : r.op.toNat ≤ 1) (hop : r'.op = r.op)
    (hmode : r'.mode = r.mode) (haddr : effectiveAddress (addressOf r') = effectiveAddress (addressOf r)) :
    replyOf (requestInstr r') = replyOf (requestInstr r) := by
  obtain h | h : r.op = 0 ∨ r.op = 1 := by bv_omega
  · rw [requestInstr_encMode h, requestInstr_encMode (hop.trans h)]
    simp only [replyOf, encModeResponse, hmode, haddr]
  · rw [requestInstr_encQuery h, requestInstr_encQuery (hop.trans h)]
    simp only [replyOf, encQueryResponse, haddr]

/-- Settles O7: both requests have the effective address 0xFFFF. -/
theorem noAddressIsBroadcast : Obligations.NoAddressIsBroadcast := by
  intro s r rest hop hlen
  obtain ⟨x, hx⟩ := requestInstr_reply (r := { r with addrEn := 0 }) (Nat.lt_of_le_of_lt hop (by decide))
  have hsame := encode_reply_congr (r := { r with addrEn := 0 }) (r' := { r with addrEn := 1, addr := 0xFFFF })
    hop rfl rfl rfl
  exact ⟨_, step_request (r := { r with addrEn := 0 }) rfl hlen hx,
    step_request (r := { r with addrEn := 1, addr := 0xFFFF }) rfl hlen (hsame.trans hx), rfl⟩

/-! ### Frames that carry their own checksum (30_encoding.md R72 to R75, R90) -/

/-- A sealed frame with an address, in the words of the statements. -/
theorem sealFrame_eq_addressedFrame (cmd d1 d2 d3 d4 : Byte) (a : Addr) :
    sealFrame cmd d1 d2 d3 d4 (highByte a) (lowByte a) = addressedFrame cmd d1 d2 d3 d4 a.toNat := by
  rw [sealFrame, addressedFrame, checksum, highByte_toNat, lowByte_toNat, highByte_eq_ofNat, lowByte_eq_ofNat]
  rfl

/-- A frame with the header, the tail and its own checksum is sealed. -/
theorem eq_sealFrame {f : Frame} (hh : f.header = headerByte) (ht : f.tail = tailByte) (hok : chkOk f = true) :
    f = sealFrame f.cmd f.d1 f.d2 f.d3 f.d4 f.d5 f.d6 := by
  have hchk : frameChecksum f = f.chk := (chkOk_iff f).1 hok
  rw [frameChecksum] at hchk
  rw [sealFrame, hchk, ← hh, ← ht]

theorem rspReadingFrame_eq_readingFrame {p q : Count} {a : Addr} {c : Byte}
    (h : chkOk (rspReadingFrame p q a c) = true) : rspReadingFrame p q a c = readingFrame p q a := by
  rw [readingFrame, ← sealFrame_eq_addressedFrame]
  simp only [← lowByte_eq_ofNat, ← highByte_eq_ofNat]
  exact eq_sealFrame rfl rfl h

theorem rspModeFrame_eq_modeFrame {x2 x3 x5 : Byte} {m : ReportingMode} {a : Addr} {c : Byte}
    (h : chkOk (rspModeFrame x2 x3 m x5 a c) = true) :
    rspModeFrame x2 x3 m x5 a c = modeFrame (modeByte m) a x2 x3 x5 := by
  rw [modeFrame, ← sealFrame_eq_addressedFrame]
  exact eq_sealFrame rfl rfl h

/-- The shared validation of a frame with the expected bytes goes on when its checksum byte is right. -/
theorem orRaise_chkOk {f : Frame} {eh ec et : Byte} (hh : f.header = eh) (hc : f.cmd = ec) (ht : f.tail = et)
    (hok : chkOk f = true) (k : Frame → Response) : orRaise (checkFrame f eh ec et) k = k f := by
  rw [(checkFrame_ok_iff f eh ec et).2 ⟨hh, hc, ht, (chkOk_iff f).1 hok⟩, orRaise_ok]

/-- 30_encoding.md R78: with the expected bytes in place, a wrong checksum byte is what the validation reports. -/
theorem orRaise_badChecksum {f : Frame} {eh ec et : Byte} (hh : f.header = eh) (hc : f.cmd = ec) (ht : f.tail = et)
    (hne : frameChecksum f ≠ f.chk) (k : Frame → Response) :
    orRaise (checkFrame f eh ec et) k = .corrupt .badChecksum := by
  simp [checkFrame, hh, hc, ht, hne]

/-- A command row with its own checksum whose operation builds that very frame answers with it. -/
theorem commandRow_built {i : Instr} {f : Frame} {d1 d2 d3 d4 : Byte} {a : Addr}
    (hreply : replyOf i =
      some (commandResponse f (.frame (sealFrame cmdHost d1 d2 d3 d4 (highByte a) (lowByte a)))))
    (henc : encode i = .frame (frameBytes f))
    (hf : f = sealFrame cmdHost d1 d2 d3 d4 (highByte a) (lowByte a)) (s : State) :
    exec i s = .next (answered s { silent 0 0 with tx := addressedFrame 0xB4 d1 d2 d3 d4 a.toNat }) ∧
      encode i = .frame (bytes (addressedFrame 0xB4 d1 d2 d3 d4 a.toNat)) := by
  subst hf
  have hbuilt := hreply.trans (congrArg some (orRaise_chkOk rfl rfl rfl (sealFrame_chkOk ..) _))
  rw [sealFrame_eq_addressedFrame] at hbuilt
  rw [sealFrame_eq_addressedFrame] at henc
  exact ⟨exec_of_reply hbuilt s, henc⟩

/-- Settles O39: each row's operation builds the sealed frame that the row is. -/
theorem commandFrameRowsAreBuilt : Obligations.CommandFrameRowsAreBuilt :=
  ⟨fun _ _ s h => commandRow_built rfl rfl (cmdModeGetFrame_sealed h) s,
    fun _ _ s h => commandRow_built rfl rfl (cmdModeSetFrame_sealed h) s,
    fun _ _ s h => commandRow_built rfl rfl (cmdModeSetFrame_sealed h) s,
    fun _ _ s h => commandRow_built rfl rfl (cmdQueryFrame_sealed h) s⟩

theorem decReading_rspReadingFrame {p q : Count} {a : Addr} {c : Byte} (h : chkOk (rspReadingFrame p q a c) = true) :
    decReadingResponse (frameBytes (rspReadingFrame p q a c)) = .reading p q a := by
  refine (orRaise_chkOk rfl rfl rfl h readingOf).trans ?_
  simp [readingOf, rspReadingFrame]

theorem decMode_rspModeFrame {x2 x3 x5 : Byte} {m : ReportingMode} {a : Addr} {c : Byte}
    (h : chkOk (rspModeFrame x2 x3 m x5 a c) = true) :
    decModeResponse (frameBytes (rspModeFrame x2 x3 m x5 a c)) = .mode m a := by
  refine (orRaise_chkOk rfl rfl rfl h modeReportOf).trans ?_
  simp [modeReportOf, rspModeFrame]

theorem rspReading_decoded {p q : Count} {a : Addr} {c : Byte} (h : chkOk (rspReadingFrame p q a c) = true)
    (s : State) :
    exec (.rspReading p q a c) s =
        .next (answered s { silent 0 0 with pm25Raw := p, pm10Raw := q, addrOut := a }) ∧
      encode (.rspReading p q a c) = .frame (bytes (readingFrame p q a)) :=
  ⟨exec_of_reply (i := .rspReading p q a c) (congrArg some (decReading_rspReadingFrame h)) s,
    congrArg (Encoded.frame ∘ bytes) (rspReadingFrame_eq_readingFrame h)⟩

theorem rspMode_decoded {x2 x3 x5 : Byte} {m : ReportingMode} {a : Addr} {c : Byte}
    (h : chkOk (rspModeFrame x2 x3 m x5 a c) = true) (s : State) :
    exec (.rspMode x2 x3 m x5 a c) s =
        .next (answered s { silent 0 0 with modeOut := modeOutCode m, addrOut := a }) ∧
      encode (.rspMode x2 x3 m x5 a c) = .frame (bytes (modeFrame (modeByte m) a x2 x3 x5)) :=
  ⟨exec_of_reply (i := .rspMode x2 x3 m x5 a c) (congrArg some (decMode_rspModeFrame h)) s,
    congrArg (Encoded.frame ∘ bytes) (rspModeFrame_eq_modeFrame h)⟩

/-- Settles O40: what the decoder extracts from a row's sealed frame is the row's fields. -/
theorem responseFrameRowsAreDecoded : Obligations.ResponseFrameRowsAreDecoded :=
  ⟨fun _ _ _ _ s h => rspReading_decoded h s,
    fun _ _ _ _ _ s => ⟨fun h => rspMode_decoded h s, fun h => rspMode_decoded h s⟩⟩

/-- A frame of one of the three command formats, with its own checksum. -/
def IsCommandFrame (f : Frame) : Prop :=
  ∃ j : Instr, decode (.frame (bytes f)) = .ok j ∧ j.wellFormed = true ∧
    ((∃ a c, j = .cmdModeGet a c) ∨ (∃ m a c, j = .cmdModeSet m a c) ∨ ∃ a c, j = .cmdQuery a c)

theorem modeCommand_isCommandFrame {mode : ModeOperand} (h : mode ≠ .invalid) (a : Addr) :
    IsCommandFrame (modeCommand mode a) := by
  have hok : chkOk (modeCommand mode a) = true := sealFrame_chkOk ..
  cases mode with
  | absent => exact ⟨_, decodeFrame_cmdModeGetFrame a (modeCommand .absent a).chk, hok, .inl ⟨_, _, rfl⟩⟩
  | active =>
    exact ⟨_, decodeFrame_cmdModeSetFrame .active a (modeCommand .active a).chk, hok, .inr (.inl ⟨_, _, _, rfl⟩)⟩
  | query =>
    exact ⟨_, decodeFrame_cmdModeSetFrame .query a (modeCommand .query a).chk, hok, .inr (.inl ⟨_, _, _, rfl⟩)⟩
  | invalid => exact absurd rfl h

theorem queryCommand_isCommandFrame (a : Addr) : IsCommandFrame (queryCommand a) :=
  ⟨_, decodeFrame_cmdQueryFrame a (queryCommand a).chk, sealFrame_chkOk .., .inr (.inr ⟨_, _, rfl⟩)⟩

/-- Settles O31: an `ENC_MODE` that answers OK had a legal operand, and `ENC_QUERY` always answers its frame. -/
theorem encoderProducesOnlyCommandFrames : Obligations.EncoderProducesOnlyCommandFrames := by
  rintro i s t (⟨mode, a, rfl⟩ | ⟨a, rfl⟩) h hok
  · obtain ⟨r, hr, rfl⟩ := exec_next h
    rcases encModeResponse_cases mode a with ⟨-, he⟩ | ⟨hmode, he⟩
    · rw [replyOf, he] at hr
      cases hr
      cases hok
    · rw [replyOf, he] at hr
      cases hr
      exact modeCommand_isCommandFrame hmode (effectiveAddress a)
  · cases h
    exact queryCommand_isCommandFrame (effectiveAddress a)

/-! ### The shared validation (30_encoding.md R78, R92) -/

/-- A decode beside the `VALIDATE` with its bytes: the same error, or `VALID` beside the extraction. -/
theorem validate_beside_decode (rx : List Byte) (eh ec et : Byte) (extract : Frame → Response) :
    (∃ e, validateResponse rx eh ec et = .corrupt e ∧ orRaise (validated rx eh ec et) extract = .corrupt e) ∨
    (∃ f, validateResponse rx eh ec et = .valid ∧ orRaise (validated rx eh ec et) extract = extract f) := by
  unfold validateResponse
  cases validated rx eh ec et with
  | error e => exact .inl ⟨e, rfl, rfl⟩
  | ok f => exact .inr ⟨f, rfl, rfl⟩

theorem modeReportOf_status (f : Frame) :
    (portsOf (modeReportOf f)).status = 0 ∨ (portsOf (modeReportOf f)).reason = 5 := by
  unfold modeReportOf
  split
  · exact .inl rfl
  · exact .inr rfl

/-- A decode in the state in which the `VALIDATE` with its bytes has led to `t`: the same state where that is an
error, and otherwise what the decode extracts from the frame that passed. -/
theorem exec_beside_validate {i : Instr} {rx : List Byte} {eh ec et : Byte} {extract : Frame → Response}
    (hi : replyOf i = some (orRaise (validated rx eh ec et) extract)) {s t : State}
    (h : exec (.validate rx eh ec et) s = .next t) :
    (t.rsp.status ≠ 0 → exec i s = .next t) ∧
      (t.rsp.status = 0 → ∃ f, exec i s = .next (respond (extract f) s)) := by
  obtain ⟨r, hr, rfl⟩ := exec_next h
  cases hr
  rcases validate_beside_decode rx eh ec et extract with ⟨e, hv, hd⟩ | ⟨f, hv, hd⟩ <;>
    rw [hd] at hi <;> rw [hv]
  · exact ⟨fun _ => exec_of_reply hi s, nofun⟩
  · exact ⟨fun herr => absurd rfl herr, fun _ => ⟨f, exec_of_reply hi s⟩⟩

/-- Settles O34: both decoders are the shared validation followed by an extraction. -/
theorem decodersBeginWithTheSharedValidation : Obligations.DecodersBeginWithTheSharedValidation := by
  intro rx s t
  constructor
  · intro h
    obtain ⟨herr, hok⟩ := exec_beside_validate (i := .decReading rx) (extract := readingOf) rfl h
    refine ⟨herr, fun h0 => ?_⟩
    obtain ⟨f, hf⟩ := hok h0
    exact ⟨_, hf, rfl⟩
  · intro h
    obtain ⟨herr, hok⟩ := exec_beside_validate (i := .decMode rx) (extract := modeReportOf) rfl h
    refine ⟨herr, fun h0 => ?_⟩
    obtain ⟨f, hf⟩ := hok h0
    exact ⟨_, hf, modeReportOf_status f⟩

theorem payloadSum_frameBytes (f : Frame) : payloadSum (frameBytes f) % 256 = (frameChecksum f).toNat :=
  (checksum_toNat ..).symm

/-- Every row is first checked against the bytes it has by form, so a wrong checksum is all that can fail. -/
theorem reply_of_wrongChecksum {f : Frame} {i : Instr} (hd : decodeFrame f = .ok i) (hne : frameChecksum f ≠ f.chk) :
    replyOf i = some (.corrupt .badChecksum) := by
  rcases decodeFrame_cases hd with ⟨a, c, rfl, rfl⟩ | ⟨m, a, c, rfl, rfl⟩ | ⟨a, c, rfl, rfl⟩ |
    ⟨p, q, a, c, rfl, rfl⟩ | ⟨x2, x3, m, x5, a, c, rfl, rfl⟩
  all_goals exact congrArg some (orRaise_badChecksum rfl rfl rfl hne _)

/-- Settles O41: `payloadSum` is the sum the checksum is taken of, so byte 8 is the wrong checksum byte. -/
theorem frameWithWrongChecksumIsCorrupt : Obligations.FrameWithWrongChecksumIsCorrupt := by
  intro bs i s hd hsum
  obtain ⟨f, rfl, hf⟩ := decode_frame_ok hd
  rw [payloadSum_frameBytes] at hsum
  exact exec_of_reply (reply_of_wrongChecksum hf fun h => hsum (congrArg BitVec.toNat h)) s

end Sys2Proof.EncodingProofs
end

section
/-! PROOFS. The family 40_checksum_validator.md. `VALIDATE` and `CHK` are read off the frame that a ten-byte
sequence is; what the checksum catches follows from how the payload sum moves when one byte is written. -/

namespace Sys2Proof.ChecksumProofs

open Machine Spec Laws StateProofs EncodingProofs

/-! ### The length (40_checksum_validator.md R105) -/

theorem orRaise_validated_badLength {rx : List Byte} (h : rx.length ≠ 10) (eh ec et : Byte) (k : Frame → Response) :
    orRaise (validated rx eh ec et) k = .corrupt .badLength := by
  rw [validated_badLength h, orRaise_error]

theorem chkResponse_badLength {rx : List Byte} (h : rx.length ≠ 10) : chkResponse rx = .corrupt .badLength := by
  rw [chkResponse, checkLength_badLength h, orRaise_error]

/-- Settles O37: all four operations look at the length first. -/
theorem wrongLengthIsBadLength : Obligations.WrongLengthIsBadLength := by
  intro rx eh ec et s h
  exact ⟨exec_of_reply (i := .decReading rx) (congrArg some (orRaise_validated_badLength h ..)) s,
    exec_of_reply (i := .decMode rx) (congrArg some (orRaise_validated_badLength h ..)) s,
    exec_of_reply (i := .validate rx eh ec et) (congrArg some (orRaise_validated_badLength h ..)) s,
    exec_of_reply (i := .chk rx) (congrArg some (chkResponse_badLength h)) s⟩

/-! ### The checksum in any order (40_checksum_validator.md R101) -/

/-- Bits 7 to 0 of a wider accumulator are the 8-bit accumulator, for truncation keeps sums. -/
theorem truncated_accumulator {w : Nat} (hw : 8 ≤ w) (bs : List Byte) :
    (bs.foldl (fun acc b => acc + b.zeroExtend w) (0 : BitVec w)).extractLsb' 0 8 = bs.foldl (· + ·) 0 := by
  rw [← BitVec.setWidth_eq_extractLsb' hw]
  have hom (acc : BitVec w) (b : Byte) : acc.setWidth 8 + b = (acc + b.zeroExtend w).setWidth 8 := by
    rw [BitVec.setWidth_add _ _ hw]
    simp [hw]
  exact (List.foldl_hom (BitVec.setWidth 8) hom).symm.trans (by simp)

/-- Settles O23: the order is immaterial to an 8-bit accumulator, and the 11-bit one truncates to it. -/
theorem checksumIsAnAccumulatorInAnyOrder : Obligations.ChecksumIsAnAccumulatorInAnyOrder := by
  intro p0 p1 p2 p3 p4 p5 order hperm
  have hsum : order.foldl (· + ·) 0 = checksum p0 p1 p2 p3 p4 p5 := by
    rw [hperm.foldl_eq, checksum_eq_add]
    simp
  exact ⟨hsum, (truncated_accumulator (by decide) order).trans hsum⟩

/-! ### `CHK` (40_checksum_validator.md R103) -/

/-- The checksum comparison, in the words of the statements. -/
theorem payloadSum_eq_iff (f : Frame) :
    payloadSum (frameBytes f) % 256 = (byteAt (frameBytes f) 8).toNat ↔ frameChecksum f = f.chk := by
  rw [payloadSum_frameBytes]
  exact BitVec.toNat_inj

theorem portsOf_chkResponse_frameBytes (f : Frame) :
    portsOf (chkResponse (frameBytes f)) = { silent 0 0 with
      sum := BitVec.ofNat 8 (payloadSum (frameBytes f) % 256),
      matched := if payloadSum (frameBytes f) % 256 = (byteAt (frameBytes f) 8).toNat then 1 else 0 } := by
  simp only [payloadSum_eq_iff, ← chkOk_iff]
  rw [payloadSum_frameBytes, BitVec.ofNat_toNat, BitVec.setWidth_eq]
  exact portsOf_sum (frameChecksum f) (chkOk f)

/-- Settles O22: a sequence is ten bytes and so a frame, or has the wrong length. -/
theorem chkReportsSumAndMatch : Obligations.ChkReportsSumAndMatch := by
  intro rx s
  refine ⟨portsOf (chkResponse rx), exec_of_reply rfl s, ?_⟩
  rcases frameOf_cases rx with ⟨f, rfl, -⟩ | ⟨hl, -⟩
  · exact .inr ⟨rfl, portsOf_chkResponse_frameBytes f⟩
  · exact .inl ⟨hl, congrArg portsOf (chkResponse_badLength hl)⟩

/-! ### `VALIDATE` (40_checksum_validator.md R106 to R108) -/

/-- The shared validation followed by `k`, as the cases of the statements; `passed` is what `k` has to give. -/
theorem checked_orRaise_validated {rx : List Byte} {eh ec et : Byte} {k : Frame → Response} {passed : Prop}
    (hpassed : ∀ f, rx = frameBytes f → orRaise (validated rx eh ec et) k = k f → passed) :
    Checked rx eh ec et (portsOf (orRaise (validated rx eh ec et) k)) passed := by
  rcases frameOf_cases rx with ⟨f, rfl, -⟩ | ⟨hl, -⟩
  · have hsum := payloadSum_eq_iff f
    rw [validated_frameBytes] at hpassed ⊢
    rcases checkFrame_cases f eh ec et with ⟨hh, e⟩ | ⟨hh, hc, e⟩ | ⟨hh, hc, ht, e⟩ | ⟨hh, hc, ht, hk, e⟩ |
      ⟨hh, hc, ht, hk, e⟩ <;> rw [e] at hpassed ⊢
    · exact .inr (.inl ⟨rfl, hh, rfl⟩)
    · exact .inr (.inr (.inl ⟨rfl, hh, hc, rfl⟩))
    · exact .inr (.inr (.inr (.inl ⟨rfl, hh, hc, ht, rfl⟩)))
    · exact .inr (.inr (.inr (.inr (.inl ⟨rfl, hh, hc, ht, mt hsum.1 hk, rfl⟩))))
    · exact .inr (.inr (.inr (.inr (.inr ⟨rfl, hh, hc, ht, hsum.2 hk, hpassed f rfl rfl⟩))))
  · exact .inl ⟨hl, congrArg portsOf (orRaise_validated_badLength hl ..)⟩

/-- Settles O25: `VALIDATE` is the shared validation followed by `VALID`. -/
theorem validateReportsTheFirstFailingCheck : Obligations.ValidateReportsTheFirstFailingCheck :=
  fun rx eh ec et s => ⟨portsOf (validateResponse rx eh ec et), exec_of_reply rfl s,
    checked_orRaise_validated fun _ _ hvalid => congrArg portsOf hvalid⟩

/-- Ten bytes with the expected header, command id and tail: what `VALIDATE` asks for beside the checksum. -/
def HasExpectedBytes (rx : List Byte) (eh ec et : Byte) : Prop :=
  rx.length = 10 ∧ byteAt rx 0 = eh ∧ byteAt rx 1 = ec ∧ byteAt rx 9 = et

section
variable {rx : List Byte} {eh ec et : Byte}

theorem HasExpectedBytes.eq_frameBytes (h : HasExpectedBytes rx eh ec et) :
    ∃ f, rx = frameBytes f ∧ f.header = eh ∧ f.cmd = ec ∧ f.tail = et := by
  obtain ⟨hl, hh, hc, ht⟩ := h
  rcases frameOf_cases rx with ⟨f, rfl, -⟩ | ⟨hn, -⟩
  · exact ⟨f, rfl, hh, hc, ht⟩
  · exact absurd hl hn

theorem exec_validate_valid (h : HasExpectedBytes rx eh ec et) (hsum : payloadSum rx % 256 = (byteAt rx 8).toNat)
    (s : State) : exec (.validate rx eh ec et) s = .next (answered s (silent 0 0)) := by
  obtain ⟨f, rfl, hh, hc, ht⟩ := h.eq_frameBytes
  have hok : chkOk f = true := (chkOk_iff f).2 ((payloadSum_eq_iff f).1 hsum)
  exact exec_of_reply (i := .validate (frameBytes f) eh ec et) (congrArg some (orRaise_chkOk hh hc ht hok _)) s

theorem exec_validate_badChecksum (h : HasExpectedBytes rx eh ec et)
    (hsum : payloadSum rx % 256 ≠ (byteAt rx 8).toNat) (s : State) :
    exec (.validate rx eh ec et) s = .next (answered s (silent 1 4)) := by
  obtain ⟨f, rfl, hh, hc, ht⟩ := h.eq_frameBytes
  have hne : frameChecksum f ≠ f.chk := mt (payloadSum_eq_iff f).2 hsum
  exact exec_of_reply (i := .validate (frameBytes f) eh ec et) (congrArg some (orRaise_badChecksum hh hc ht hne _)) s

end

/-- Settles O26: every failing check is reported with status 1, and what passes all five has the five properties. -/
theorem validateAcceptsExactly : Obligations.ValidateAcceptsExactly := by
  intro rx eh ec et s
  constructor
  · rintro ⟨t, h, hok⟩
    obtain ⟨p, hp, hchecked⟩ := validateReportsTheFirstFailingCheck rx eh ec et s
    rw [hp] at h
    cases h
    rcases hchecked with ⟨-, rfl⟩ | ⟨-, -, rfl⟩ | ⟨-, -, -, rfl⟩ | ⟨-, -, -, -, rfl⟩ | ⟨-, -, -, -, -, rfl⟩ |
      ⟨hl, hh, hc, ht, hsum, -⟩
    iterate 5 exact nomatch hok
    · exact ⟨hl, hh, hc, ht, hsum⟩
  · rintro ⟨hl, hh, hc, ht, hsum⟩
    exact ⟨_, exec_validate_valid ⟨hl, hh, hc, ht⟩ hsum s, rfl⟩

/-- A frame with the bytes of a command and its own checksum is accepted. -/
theorem exec_validate_command {f : Frame} (hh : f.header = headerByte) (hc : f.cmd = cmdHost) (ht : f.tail = tailByte)
    (hok : chkOk f = true) (s : State) :
    exec (.validate (bytes f) 0xAA 0xB4 0xAB) s = .next (answered s (silent 0 0)) :=
  have hexp : HasExpectedBytes (frameBytes f) 0xAA 0xB4 0xAB := ⟨rfl, hh, hc, ht⟩
  exec_validate_valid hexp ((payloadSum_eq_iff f).2 ((chkOk_iff f).1 hok)) s

/-- Settles O27: what the encoder puts on `tx` is a well-formed frame of one of the three command formats. -/
theorem encodedFramesValidate : Obligations.EncodedFramesValidate := by
  intro i s t hi h hok
  obtain ⟨j, hd, hwf, hrow⟩ := encoderProducesOnlyCommandFrames i s t hi h hok
  rcases hrow with ⟨a, c, rfl⟩ | ⟨m, a, c, rfl⟩ | ⟨a, c, rfl⟩ <;> rw [eq_of_decode hd rfl]
  all_goals exact exec_validate_command rfl rfl rfl hwf t

/-! ### Writing one byte (40_checksum_validator.md R104) -/

theorem byteAt_set_ne {rx : List Byte} {j k : Nat} {v : Byte} (h : k ≠ j) : byteAt (rx.set k v) j = byteAt rx j := by
  simp [byteAt, List.getD_eq_getElem?_getD, List.getElem?_set_ne h]

theorem byteAt_set_same {rx : List Byte} {k : Nat} {v : Byte} (h : k < rx.length) : byteAt (rx.set k v) k = v := by
  simp [byteAt, List.getD_eq_getElem?_getD, h]

theorem payloadSum_eq_sum (rx : List Byte) : payloadSum rx = ∑ j ∈ Finset.Ico 2 8, (byteAt rx j).toNat := by
  simp [payloadSum, Finset.sum_Ico_succ_top]

theorem payloadSum_set_outside {rx : List Byte} {k : Nat} {v : Byte} (h : k ∉ Finset.Ico 2 8) :
    payloadSum (rx.set k v) = payloadSum rx := by
  simp only [payloadSum_eq_sum]
  refine Finset.sum_congr rfl fun j hj => ?_
  rw [byteAt_set_ne (ne_of_mem_of_not_mem hj h).symm]

/-- A byte written in the payload replaces its old value in the sum. -/
theorem payloadSum_set_inside {rx : List Byte} {k : Nat} {v : Byte} (h : k ∈ Finset.Ico 2 8) (hk : k < rx.length) :
    payloadSum (rx.set k v) + (byteAt rx k).toNat = payloadSum rx + v.toNat := by
  have hrest : ∑ j ∈ (Finset.Ico 2 8).erase k, (byteAt (rx.set k v) j).toNat =
      ∑ j ∈ (Finset.Ico 2 8).erase k, (byteAt rx j).toNat :=
    Finset.sum_congr rfl fun j hj => by rw [byteAt_set_ne (Finset.ne_of_mem_erase hj).symm]
  rw [payloadSum_eq_sum, payloadSum_eq_sum, ← Finset.add_sum_erase _ _ h, ← Finset.add_sum_erase _ _ h, hrest,
    byteAt_set_same hk]
  omega

theorem HasExpectedBytes.set {rx : List Byte} {eh ec et : Byte} (h : HasExpectedBytes rx eh ec et) {k : Nat}
    (h2 : 2 ≤ k) (h8 : k ≤ 8) (v : Byte) : HasExpectedBytes (rx.set k v) eh ec et := by
  obtain ⟨hl, hh, hc, ht⟩ := h
  exact ⟨by simpa using hl, (byteAt_set_ne (by omega)).trans hh, (byteAt_set_ne (by omega)).trans hc,
    (byteAt_set_ne (by omega)).trans ht⟩

/-- Swapping two payload bytes keeps the sum: what one write takes away the other gives back. -/
theorem payloadSum_swap {rx : List Byte} {j k : Nat} (hj : j ∈ Finset.Ico 2 8) (hk : k ∈ Finset.Ico 2 8)
    (hjl : j < rx.length) (hkl : k < rx.length) :
    payloadSum ((rx.set j (byteAt rx k)).set k (byteAt rx j)) = payloadSum rx := by
  have hfirst := payloadSum_set_inside (v := byteAt rx k) hj hjl
  have hsecond := payloadSum_set_inside (rx := rx.set j (byteAt rx k)) (v := byteAt rx j) hk (by simpa using hkl)
  have hmiddle : byteAt (rx.set j (byteAt rx k)) k = byteAt rx k := by
    obtain rfl | hne := eq_or_ne j k
    · exact byteAt_set_same hjl
    · exact byteAt_set_ne hne
  rw [hmiddle] at hsecond
  omega

/-- Two bytes that differ are not congruent modulo 256, so one changed byte moves the sum alone or byte 8 alone. -/
theorem payloadSum_set_mismatch {rx : List Byte} (hl : rx.length = 10)
    (hsum : payloadSum rx % 256 = (byteAt rx 8).toNat) {k : Nat} {v : Byte} (h2 : 2 ≤ k) (h8 : k ≤ 8)
    (hv : v ≠ byteAt rx k) : payloadSum (rx.set k v) % 256 ≠ (byteAt (rx.set k v) 8).toNat := by
  have hne : v.toNat ≠ (byteAt rx k).toNat := mt BitVec.eq_of_toNat_eq hv
  obtain rfl | hk : k = 8 ∨ k < 8 := by omega
  · rw [payloadSum_set_outside (by simp), byteAt_set_same (by omega), hsum]
    exact hne.symm
  · have hmoved := payloadSum_set_inside (rx := rx) (v := v) (Finset.mem_Ico.2 ⟨h2, hk⟩) (by omega)
    have hlt := v.isLt
    have hlt' := (byteAt rx k).isLt
    rw [byteAt_set_ne (by omega)]
    omega

/-- Settles O24: one changed byte at 2 to 8 breaks the match, one at 0, 1 or 9 is neither summed nor compared, and a
swap keeps the sum. -/
theorem checksumCatchesOneChangedByte : Obligations.ChecksumCatchesOneChangedByte := by
  intro rx eh ec et s hl h
  obtain ⟨-, hh, hc, ht, hsum⟩ := (validateAcceptsExactly rx eh ec et s).1 ⟨_, h, rfl⟩
  have hexp : HasExpectedBytes rx eh ec et := ⟨hl, hh, hc, ht⟩
  refine ⟨fun k v h2 h8 hv => ?_, fun k v hk => ?_, fun j k hj2 hj7 hk2 hk7 => ?_⟩
  · exact exec_validate_badChecksum (hexp.set h2 h8 v) (payloadSum_set_mismatch hl hsum h2 h8 hv) s
  · obtain ⟨p, hp, ⟨hlen, -⟩ | ⟨-, rfl⟩⟩ := chkReportsSumAndMatch (rx.set k v) s
    · exact absurd (by simpa using hl) hlen
    · refine ⟨_, hp, rfl, if_pos ?_⟩
      rwa [payloadSum_set_outside (by rw [Finset.mem_Ico]; omega), byteAt_set_ne (by omega)]
  · refine exec_validate_valid ((hexp.set hj2 (by omega) _).set hk2 (by omega) _) ?_ s
    rwa [payloadSum_swap (Finset.mem_Ico.2 ⟨hj2, by omega⟩) (Finset.mem_Ico.2 ⟨hk2, by omega⟩) (by omega) (by omega),
      byteAt_set_ne (by omega), byteAt_set_ne (by omega)]

end Sys2Proof.ChecksumProofs
end

section
/-! PROOFS. The family 41_frame_encoder.md. The encoder's frames are sealed frames with an address; the operation,
the mode operand and the address can each be read back from their own bytes, so no two requests share a frame. -/

namespace Sys2Proof.EncoderProofs

open Machine Spec Laws StateProofs EncodingProofs

/-! ### What the encoder answers (41_frame_encoder.md R120, R121, R125) -/

theorem target_eq_toNat (a : Option Addr) : target a = (effectiveAddress a).toNat := by
  cases a <;> rfl

/-- A sealed frame with the effective address, in the words of the statements. -/
theorem sealFrame_effectiveAddress (cmd d1 d2 d3 d4 : Byte) (a : Option Addr) :
    sealFrame cmd d1 d2 d3 d4 (highByte (effectiveAddress a)) (lowByte (effectiveAddress a)) =
      addressedFrame cmd d1 d2 d3 d4 (target a) := by
  rw [target_eq_toNat, sealFrame_eq_addressedFrame]

/-- A legal mode operand is answered with its frame. -/
theorem exec_encMode {mode : ModeOperand} (h : mode ≠ .invalid) (a : Option Addr) (s : State) :
    exec (.encMode mode a) s =
      .next (answered s { silent 0 0 with tx := modeCommand mode (effectiveAddress a) }) :=
  exec_of_reply (i := .encMode mode a) (congrArg some (if_neg h)) s

theorem exec_encQuery (a : Option Addr) (s : State) :
    exec (.encQuery a) s = .next (answered s { silent 0 0 with tx := queryCommand (effectiveAddress a) }) :=
  exec_of_reply (i := .encQuery a) rfl s

/-- A legal mode operand is answered with the frame of its two flag bytes (41_frame_encoder.md R124). -/
theorem exec_encMode_flags {mode : ModeOperand} (h : mode ≠ .invalid) (a : Option Addr) (s : State) :
    exec (.encMode mode a) s = .next (answered s { silent 0 0 with
      tx := addressedFrame 0xB4 0x02 (setFlag mode) (queryFlag mode) 0x00 (target a) }) := by
  rw [exec_encMode h, modeCommand, sealFrame_effectiveAddress]
  rfl

/-- Settles O28: the three legal operands differ in their flag bytes, and INVALID raises before a frame is built. -/
theorem encModeBuildsItsFrame : Obligations.EncModeBuildsItsFrame := fun a s =>
  ⟨exec_encMode_flags (mode := .absent) nofun a s, exec_encMode_flags (mode := .active) nofun a s,
    exec_encMode_flags (mode := .query) nofun a s, exec_of_reply (i := .encMode .invalid a) rfl s⟩

/-- Settles O29: `ENC_QUERY` answers the sealed frame of its address. -/
theorem encQueryBuildsItsFrame : Obligations.EncQueryBuildsItsFrame := by
  intro a s
  rw [exec_encQuery, queryCommand, sealFrame_effectiveAddress]
  rfl

/-! ### Reading a request back from its frame (41_frame_encoder.md R128) -/

theorem target_eq_iff (a a' : Option Addr) : target a = target a' ↔ effectiveAddress a = effectiveAddress a' := by
  rw [target_eq_toNat, target_eq_toNat, BitVec.toNat_inj]

/-- The address is told by its two bytes. -/
theorem address_eq_of_bytes {a a' : Addr} (hhigh : highByte a = highByte a') (hlow : lowByte a = lowByte a') :
    a = a' := by
  rw [← bigEndian_high_low a, hhigh, hlow, bigEndian_high_low]

/-- The mode operand that a command frame's get/set and active/query flag bytes stand for. -/
def operandOfFlags (set query : Byte) : ModeOperand :=
  if set = 0x00 then .absent else if query = 0x00 then .active else .query

theorem operandOfFlags_flags {mode : ModeOperand} (h : mode ≠ .invalid) :
    operandOfFlags (setFlag mode) (queryFlag mode) = mode := by
  cases mode with
  | absent => rfl
  | active => rfl
  | query => rfl
  | invalid => exact absurd rfl h

/-- A legal mode operand is told by its two flag bytes. -/
theorem mode_eq_of_flags {mode mode' : ModeOperand} (h : mode ≠ .invalid) (h' : mode' ≠ .invalid)
    (hset : setFlag mode = setFlag mode') (hquery : queryFlag mode = queryFlag mode') : mode = mode' := by
  rw [← operandOfFlags_flags h, hset, hquery, operandOfFlags_flags h']

theorem modeCommand_eq_iff {mode mode' : ModeOperand} (h : mode ≠ .invalid) (h' : mode' ≠ .invalid) (a a' : Addr) :
    modeCommand mode a = modeCommand mode' a' ↔ mode = mode' ∧ a = a' := by
  constructor
  · intro heq
    exact ⟨mode_eq_of_flags h h' (congrArg Frame.d2 heq) (congrArg Frame.d3 heq),
      address_eq_of_bytes (congrArg Frame.d5 heq) (congrArg Frame.d6 heq)⟩
  · rintro ⟨rfl, rfl⟩
    rfl

theorem queryCommand_eq_iff (a a' : Addr) : queryCommand a = queryCommand a' ↔ a = a' :=
  ⟨fun heq => address_eq_of_bytes (congrArg Frame.d5 heq) (congrArg Frame.d6 heq), congrArg queryCommand⟩

/-- The operation is told by the subtype byte. -/
theorem modeCommand_ne_queryCommand (mode : ModeOperand) (a a' : Addr) : modeCommand mode a ≠ queryCommand a' := by
  intro heq
  have hsub : subMode = subQuery := congrArg Frame.d1 heq
  exact absurd hsub (by decide)

/-- Settles O30: each frame is the command of its request, and commands are equal exactly when their fields are. -/
theorem encodingLosesNothing : Obligations.EncodingLosesNothing := by
  intro s mode mode' a a' t t' u u' hmode hmode' ht ht' hu hu'
  rw [exec_encMode hmode] at ht
  rw [exec_encMode hmode'] at ht'
  rw [exec_encQuery] at hu hu'
  cases ht
  cases ht'
  cases hu
  cases hu'
  rw [target_eq_iff]
  exact ⟨modeCommand_eq_iff hmode hmode' _ _, queryCommand_eq_iff _ _, modeCommand_ne_queryCommand _ _ _⟩

end Sys2Proof.EncoderProofs
end

section
/-! PROOFS. The family 42_frame_decoder.md. A decode is the shared validation followed by an extraction, so the
statements about it need only what the extraction gives; a frame built for a reading or a mode report is the
response row with its own checksum. -/

namespace Sys2Proof.DecoderProofs

open Machine Spec Laws StateProofs EncodingProofs ChecksumProofs

/-! ### The extractions (42_frame_decoder.md R141, R145, R146) -/

/-- The extraction of a reading, in the words of the statements. -/
theorem portsOf_readingOf (f : Frame) :
    portsOf (readingOf f) = { silent 0 0 with
      pm25Raw := BitVec.ofNat 16 (f.d1.toNat + 256 * f.d2.toNat),
      pm10Raw := BitVec.ofNat 16 (f.d3.toNat + 256 * f.d4.toNat),
      addrOut := BitVec.ofNat 16 (256 * f.d5.toNat + f.d6.toNat) } := by
  rw [readingOf, littleEndian_eq_ofNat, littleEndian_eq_ofNat, bigEndian_eq_ofNat]
  rfl

/-- A mode's code on `mode_out` is the low bit of its byte. -/
theorem modeOutCode_eq_ofNat (m : ReportingMode) : modeOutCode m = BitVec.ofNat 1 (modeByte m).toNat := by
  cases m <;> rfl

theorem modeOfByte_eq_none_of_two_le {b : Byte} (h : 2 ≤ b.toNat) : modeOfByte b = none :=
  modeOfByte_eq_none (by rintro rfl; simp at h) (by rintro rfl; simp at h)

theorem exists_eq_modeByte {b : Byte} (h : b.toNat < 2) : ∃ m, b = modeByte m := by
  obtain h0 | h1 : b.toNat = 0 ∨ b.toNat = 1 := by omega
  · exact ⟨.active, eq_ofNat_of_toNat h0⟩
  · exact ⟨.query, eq_ofNat_of_toNat h1⟩

/-- The mode check and the extraction of a mode report, in the words of the statements. -/
theorem portsOf_modeReportOf (f : Frame) :
    (2 ≤ f.d3.toNat ∧ portsOf (modeReportOf f) = silent 1 5) ∨
    (f.d3.toNat < 2 ∧ portsOf (modeReportOf f) = { silent 0 0 with
      modeOut := BitVec.ofNat 1 f.d3.toNat,
      addrOut := BitVec.ofNat 16 (256 * f.d5.toNat + f.d6.toNat) }) := by
  rcases Nat.lt_or_ge f.d3.toNat 2 with h | h
  · obtain ⟨m, hm⟩ := exists_eq_modeByte h
    refine .inr ⟨h, ?_⟩
    rw [modeReportOf, hm, modeOfByte_modeByte, ← modeOutCode_eq_ofNat, ← bigEndian_eq_ofNat]
    rfl
  · refine .inl ⟨h, ?_⟩
    rw [modeReportOf, modeOfByte_eq_none_of_two_le h]
    rfl

/-! ### What a decode answers (42_frame_decoder.md R140, R145) -/

/-- Settles O32: the shared validation, followed by the extraction of a reading. -/
theorem decReadingDecodesOrReports : Obligations.DecReadingDecodesOrReports := by
  intro rx s
  refine ⟨portsOf (decReadingResponse rx), exec_of_reply rfl s, checked_orRaise_validated ?_⟩
  rintro f rfl hpassed
  exact (congrArg portsOf hpassed).trans (portsOf_readingOf f)

/-- Settles O33: the shared validation, followed by the mode check and the extraction of a mode report. -/
theorem decModeDecodesOrReports : Obligations.DecModeDecodesOrReports := by
  intro rx s
  refine ⟨portsOf (decModeResponse rx), exec_of_reply rfl s, checked_orRaise_validated ?_⟩
  rintro f rfl hpassed
  have hreply : decModeResponse (frameBytes f) = modeReportOf f := hpassed
  rw [hreply]
  exact portsOf_modeReportOf f

/-! ### Round trip (42_frame_decoder.md R149) -/

/-- The frame of a reading is a response row with its own checksum. -/
theorem readingFrame_isRow (p q : Count) (a : Addr) :
    ∃ c, chkOk (rspReadingFrame p q a c) = true ∧ readingFrame p q a = rspReadingFrame p q a c := by
  have hok : chkOk (rspReadingFrame p q a (frameChecksum (rspReadingFrame p q a 0))) = true :=
    (chkOk_iff _).2 rfl
  exact ⟨_, hok, (rspReadingFrame_eq_readingFrame hok).symm⟩

/-- The frame of a mode report is a response row with its own checksum. -/
theorem modeFrame_isRow (m : ReportingMode) (a : Addr) (x2 x3 x5 : Byte) :
    ∃ c, chkOk (rspModeFrame x2 x3 m x5 a c) = true ∧
      modeFrame (modeByte m) a x2 x3 x5 = rspModeFrame x2 x3 m x5 a c := by
  have hok : chkOk (rspModeFrame x2 x3 m x5 a (frameChecksum (rspModeFrame x2 x3 m x5 a 0))) = true :=
    (chkOk_iff _).2 rfl
  exact ⟨_, hok, (rspModeFrame_eq_modeFrame hok).symm⟩

theorem exec_decReading_readingFrame (p q : Count) (a : Addr) (s : State) :
    exec (.decReading (bytes (readingFrame p q a))) s =
      .next (answered s { silent 0 0 with pm25Raw := p, pm10Raw := q, addrOut := a }) := by
  obtain ⟨c, hok, hrow⟩ := readingFrame_isRow p q a
  rw [hrow]
  exact exec_of_reply (i := .decReading (frameBytes _)) (congrArg some (decReading_rspReadingFrame hok)) s

theorem exec_decMode_modeFrame (m : ReportingMode) (a : Addr) (x2 x3 x5 : Byte) (s : State) :
    exec (.decMode (bytes (modeFrame (modeByte m) a x2 x3 x5))) s =
      .next (answered s { silent 0 0 with modeOut := BitVec.ofNat 1 (modeByte m).toNat, addrOut := a }) := by
  obtain ⟨c, hok, hrow⟩ := modeFrame_isRow m a x2 x3 x5
  rw [hrow, ← modeOutCode_eq_ofNat]
  exact exec_of_reply (i := .decMode (frameBytes _)) (congrArg some (decMode_rspModeFrame hok)) s

/-- Settles O35: the two legal mode bytes are the bytes of the two modes. -/
theorem decodingRecoversWhatWasFramed : Obligations.DecodingRecoversWhatWasFramed := by
  refine ⟨exec_decReading_readingFrame, fun m a x2 x3 x5 s hm => ?_⟩
  rcases hm with rfl | rfl
  · exact exec_decMode_modeFrame .active a x2 x3 x5 s
  · exact exec_decMode_modeFrame .query a x2 x3 x5 s

/-! ### A frame of another type (42_frame_decoder.md R148) -/

/-- With the expected header and another command id, the command id is what the validation reports. -/
theorem orRaise_badCommand {f : Frame} {eh ec : Byte} (hh : f.header = eh) (hc : f.cmd ≠ ec) (et : Byte)
    (k : Frame → Response) : orRaise (checkFrame f eh ec et) k = .corrupt .badCommand := by
  simp [checkFrame, hh, hc]

theorem exec_badCommand {i : Instr} {f : Frame} {eh ec et : Byte} {extract : Frame → Response}
    (hi : replyOf i = some (orRaise (validated (frameBytes f) eh ec et) extract)) (hh : f.header = eh)
    (hc : f.cmd ≠ ec) (s : State) : exec i s = .next (answered s (silent 1 2)) := by
  rw [validated_frameBytes, orRaise_badCommand hh hc] at hi
  exact exec_of_reply hi s

/-- Settles O36: the header is right and the command id, checked next, is another. -/
theorem wrongFrameTypeIsBadCommand : Obligations.WrongFrameTypeIsBadCommand := by
  intro cmd d1 d2 d3 d4 a s
  constructor
  · intro hcmd
    have hne : cmd ≠ cmdReading := by rcases hcmd with rfl | rfl <;> decide
    exact exec_badCommand (i := .decReading (frameBytes _)) rfl rfl hne s
  · intro hcmd
    have hne : cmd ≠ cmdModeReport := by rcases hcmd with rfl | rfl <;> decide
    exact exec_badCommand (i := .decMode (frameBytes _)) rfl rfl hne s

/-! ### The decimal reading (42_frame_decoder.md R142) -/

/-- The decimal reading is the division of the count by ten with its remainder. -/
theorem dec10_recombine (r : Count) : 10 * (dec10 r).1 + (dec10 r).2 = r.toNat := Nat.div_add_mod r.toNat 10

theorem dec10_integer_le (r : Count) : (dec10 r).1 ≤ 6553 := Nat.div_le_div_right (c := 10) (Nat.le_of_lt_succ r.isLt)

theorem dec10_tenths_le (r : Count) : (dec10 r).2 ≤ 9 :=
  Nat.le_of_lt_succ (Nat.mod_lt r.toNat (by decide))

theorem dec10_injective {r r' : Count} (h : dec10 r = dec10 r') : r = r' := by
  apply BitVec.eq_of_toNat_eq
  rw [← dec10_recombine r, h, dec10_recombine r']

/-- Settles O38: a count is put together again from its decimal reading. -/
theorem decimalReadingIsExact : Obligations.DecimalReadingIsExact := fun r _ =>
  ⟨dec10_recombine r, dec10_integer_le r, dec10_tenths_le r, dec10_injective⟩

end Sys2Proof.DecoderProofs
end

section
/-! PROOFS. The family 60_exceptions.md. A response that has been given is the port encoding of a response of the
abstract view, and that is lawful whatever the response; which error it can be follows from the one place that
raises `InvalidArgument`. -/

namespace Sys2Proof.ExceptionProofs

open Machine Spec Laws StateProofs

/-! ### The invariant of the response ports -/

/-- Settles O17: a step leaves the state alone, takes a reset and so withdraws the response, or drives the ports
with the encoding of a response. -/
theorem stepKeepsTheResponsePortsLawful : Obligations.StepKeepsTheResponsePortsLawful := by
  intro s t hinv hstep
  rcases step_next hstep with ⟨-, rfl⟩ | ⟨_, _, -, rfl⟩ | ⟨_, _, r, _, -, -, -, rfl⟩
  · exact hinv
  · intro hgiven
    rw [takeReset_responded] at hgiven
    cases hgiven
  · intro _
    rw [respond_rsp]
    exact portsOf_lawful r

/-- Settles O9: the empty list of inputs is the first case of `step`, which hands the state back. -/
theorem nothingHappensWithoutAnInput : Obligations.NothingHappensWithoutAnInput := fun _ => step_idle

/-! ### Which operation raises which error (60_exceptions.md R170) -/

theorem portsOf_status_eq_two_iff (r : Response) : (portsOf r).status = 2 ↔ r = .invalidArg := by
  cases r <;> simp [portsOf, okNoData]

theorem encModeResponse_eq_invalidArg_iff (mode : ModeOperand) (a : Option Addr) :
    encModeResponse mode a = .invalidArg ↔ mode = .invalid := by
  rcases encModeResponse_cases mode a with ⟨hmode, h⟩ | ⟨hmode, h⟩
  · exact iff_of_true h hmode
  · rw [h]
    exact iff_of_false nofun hmode

/-- A failed check raises `CorruptFrame`, so `InvalidArgument` could come only from what follows the check. -/
theorem orRaise_ne_invalidArg (checked : Except Reason Frame) {goOn : Frame → Response}
    (h : ∀ f, goOn f ≠ .invalidArg) : orRaise checked goOn ≠ .invalidArg := by
  cases checked with
  | error _ => exact nofun
  | ok f => exact h f

theorem modeReportOf_ne_invalidArg (f : Frame) : modeReportOf f ≠ .invalidArg := by
  unfold modeReportOf
  split <;> exact nofun

theorem decReadingResponse_ne_invalidArg (rx : List Byte) : decReadingResponse rx ≠ .invalidArg :=
  orRaise_ne_invalidArg _ fun _ => nofun

theorem decModeResponse_ne_invalidArg (rx : List Byte) : decModeResponse rx ≠ .invalidArg :=
  orRaise_ne_invalidArg _ modeReportOf_ne_invalidArg

theorem commandResponse_ne_invalidArg (f : Frame) {built : Response} (h : built ≠ .invalidArg) :
    commandResponse f built ≠ .invalidArg :=
  orRaise_ne_invalidArg _ fun _ => h

theorem settingOperand_ne_invalid (m : ReportingMode) : settingOperand m ≠ .invalid := by
  cases m <;> exact nofun

/-- Only `ENC_MODE` with the INVALID operand is answered with `InvalidArgument`. -/
theorem eq_encMode_invalid_of_reply {i : Instr} {r : Response} (h : replyOf i = some r) (hr : r = .invalidArg) :
    ∃ a, i = .encMode .invalid a := by
  cases i <;> cases h
  case encMode mode a =>
    obtain rfl := (encModeResponse_eq_invalidArg_iff mode a).1 hr
    exact ⟨a, rfl⟩
  case encQuery => cases hr
  case decReading rx => exact absurd hr (decReadingResponse_ne_invalidArg rx)
  case decMode rx => exact absurd hr (decModeResponse_ne_invalidArg rx)
  case validate => exact absurd hr (orRaise_ne_invalidArg _ fun _ => nofun)
  case chk => exact absurd hr (orRaise_ne_invalidArg _ fun _ => nofun)
  case cmdModeGet => exact absurd hr (commandResponse_ne_invalidArg _ nofun)
  case cmdModeSet m a _ =>
    have hbuilt := mt (encModeResponse_eq_invalidArg_iff (settingOperand m) (some a)).1 (settingOperand_ne_invalid m)
    exact absurd hr (commandResponse_ne_invalidArg _ hbuilt)
  case cmdQuery => exact absurd hr (commandResponse_ne_invalidArg _ nofun)
  case rspReading => exact absurd hr (decReadingResponse_ne_invalidArg _)
  case rspMode => exact absurd hr (decModeResponse_ne_invalidArg _)

/-- `ENC_MODE` either builds a frame or raises `InvalidArgument` (41_frame_encoder.md R122). -/
theorem portsOf_encModeResponse_status_ne_one (mode : ModeOperand) (a : Option Addr) :
    (portsOf (encModeResponse mode a)).status ≠ 1 := by
  rcases encModeResponse_cases mode a with ⟨-, h⟩ | ⟨-, h⟩ <;> rw [h] <;> exact nofun

/-- Settles O21: each part is a fact about the reply, which a next state holds on its ports. -/
theorem errorKindsByOperation : Obligations.ErrorKindsByOperation := by
  refine ⟨fun i s t h hstatus => ?_, fun mode a s t h => ?_, fun a s t h => ?_⟩ <;>
    obtain ⟨r, hr, rfl⟩ := exec_next h
  · exact eq_encMode_invalid_of_reply hr ((portsOf_status_eq_two_iff r).1 hstatus)
  · obtain rfl := Option.some.inj hr
    exact portsOf_encModeResponse_status_ne_one mode a
  · obtain rfl := Option.some.inj hr
    rfl

end Sys2Proof.ExceptionProofs
end

section
/-! PROOFS. The family 70_reset_and_hazards.md. A reset and every legal request take exactly one step each, so the
statements follow from the step lemmas by putting steps one after another. -/

namespace Sys2Proof.ResetProofs

open Machine Laws EncodingProofs

/-- Settles O10: the reset and the request after it are two steps; the first never reads the request it cuts short. -/
theorem resetDropsAndReadies : Obligations.ResetDropsAndReadies := by
  intro s cut r rest hin hop hlen
  obtain ⟨x, hx⟩ := requestInstr_reply hop
  have hreset : step s = .next (takeReset (s.afterTaking (.present (.request r) :: rest))) := step_reset hin
  have hnext : (takeReset (s.afterTaking (.present (.request r) :: rest))).inputs = .present (.request r) :: rest :=
    takeReset_inputs _
  exact ⟨_, _, hreset, takeReset_responded _, hnext, step_request hnext hlen hx, respond_responded _ _, rfl⟩

/-- Settles O15: a run over legal inputs takes them all; here they are the whole list and nothing is left. -/
theorem legalRunCompletes : Obligations.LegalRunCompletes := fun s hlegal =>
  run_legal s.inputs s [] (List.append_nil _).symm hlegal

end Sys2Proof.ResetProofs
end
